-- ==== Sys2Proof/Word.lean ====
section
/-! DEFINITION. The word types of the engine (00_scope.md R9): a byte is 8 bits, a word 32 bits, and a bit or line level is a
Bool, with `true` for 1 (high). -/

namespace Sys2Proof

/-- A byte, 8 bits (00_scope.md R9). -/
abbrev Byte := BitVec 8

/-- A word, 32 bits (00_scope.md R9). -/
abbrev Word := BitVec 32

/-- A bit or a logic level: `true` is 1 (high), `false` is 0 (low). -/
abbrev Bit := Bool

end Sys2Proof
end

