-- ==== Sys2Proof/Config.lean ====
section
/-! DEFINITION. The parameters of an instance of the engine (00_scope.md R7) and the free values the spec leaves open.
`State.cfg` holds one `Config`: a statement over all states is a statement over all parameter values, under `Config.wf`
where it needs the constraints of R7. -/

namespace Sys2Proof

/-- The parameters of one instance (00_scope.md R7). No step changes them. -/
structure Config where
  /-- `BASE_ADDR`, host address of the register window (OPEN in the spec, 20_memory.md R50). -/
  baseAddr : Nat
  /-- `BIT_DELAY`, the length of one `Wait` in microseconds (OPEN in the spec). -/
  bitDelay : Nat
  /-- `CMD_DATA_AUTO`, the command byte selecting auto-increment display write. -/
  cmdDataAuto : Byte
  /-- `CMD_ADDR`, the base-address command byte. -/
  cmdAddr : Byte
  /-- `CMD_DISPLAY_ON`, the brightness/power base pattern for display on. -/
  cmdDisplayOn : Byte
  /-- `CMD_DISPLAY_OFF`, the brightness/power base pattern for display off. -/
  cmdDisplayOff : Byte
  /-- `GLYPH[0..9]`, the digit glyph table (10_state.md R32). -/
  glyph : Vector Byte 10
  /-- `INDICATOR_MASK`, ORed in by SHOW_TIME when the colon is on. -/
  indicatorMask : Byte
  /-- `INDICATOR_POS`, the frame position that receives it: 0 to 3 by its type (R7 constraint (iv)). -/
  indicatorPos : Fin 4
  deriving DecidableEq, Repr

/-- `BLANK`, the blank glyph: 0x00, fixed by R7. -/
def Config.blank : Byte := 0x00#8

/-- `DASH`, the sign and overflow glyph: 0x40, fixed by R7. -/
def Config.dash : Byte := 0x40#8

/-- Digit positions per frame, `NUM_POSITIONS`: 4, fixed by R7. -/
def Config.numPositions : Nat := 4

/-- R7 constraint (i): the decimal-point bit is clear in every glyph. -/
abbrev Config.glyphsClear (c : Config) : Prop := ∀ d : Fin 10, c.glyph[d] &&& 0x80#8 = 0#8

/-- R7 constraint (ii): the level bits are clear in both base patterns. -/
abbrev Config.levelsClear (c : Config) : Prop :=
  c.cmdDisplayOn &&& 0x07#8 = 0#8 ∧ c.cmdDisplayOff &&& 0x07#8 = 0#8

/-- R7 constraint (iii): the two base patterns differ in exactly one bit. -/
abbrev Config.onOffOneBit (c : Config) : Prop :=
  ∃ k : Fin 8, c.cmdDisplayOn ^^^ c.cmdDisplayOff = 1#8 <<< k.val

/-- The constraints (i) to (v) of R7 on an instance's parameters (constraint (iv) is the type of `indicatorPos`), and the
alignment of the window (20_memory.md R50). -/
abbrev Config.wf (c : Config) : Prop :=
  c.baseAddr % 32 = 0 ∧ c.glyphsClear ∧ c.levelsClear ∧ c.onOffOneBit ∧ 0 < c.bitDelay

/-- The parameter values at `State.reset`: the defaults of R7, and for the two OPEN parameters a value of the model's.
PRESUMED (command bytes and glyphs: the spec's defaults, marked there as general knowledge; unsafe), log 4.
DESIGN CHOICE (`baseAddr` 0 and `bitDelay` 5; unsafe for a claim that rests on them), log 5. -/
def Config.default : Config where
  baseAddr := 0
  bitDelay := 5
  cmdDataAuto := 0x40#8
  cmdAddr := 0xC0#8
  cmdDisplayOn := 0x88#8
  cmdDisplayOff := 0x80#8
  glyph := #v[0x3F#8, 0x06#8, 0x5B#8, 0x4F#8, 0x66#8, 0x6D#8, 0x7D#8, 0x07#8, 0x7F#8, 0x6F#8]
  indicatorMask := 0x80#8
  indicatorPos := 1

/-- FREE VALUE: the level the peer leaves on DIO in its `n`-th acknowledgment slot for which no level was supplied
(40_bus_protocol.md R106, "under no law"). It has no body, so nothing can be proved of it. Log 2 (safe). -/
opaque Config.freeDraw : Nat → Bit

/-- FREE VALUE: what a bus monitor reads where both lines rise together, which only a reset makes them do: the bit of the clock
edge, and whether it is a stop condition too (70_reset_and_hazards.md R201, "not specified"). It has no body. Log 13 (safe). -/
opaque Config.freeRise : Nat → Bit

end Sys2Proof
end

