-- ==== Sys2Proof/Syntax.lean ====
section
/-! DEFINITION. The engine's operations (30_encoding.md R74, opcode_table.json), one constructor each, with the operands of
R71 and R73. What is sent or masked bit by bit is a `Byte`; what is clamped, divided or indexed is a `Nat`, whose range is
that of its field (`Instr.wf`). The operands VALUE and FRAME are registers, not part of the command word. -/

namespace Sys2Proof

/-- The thirteen operations of 30_encoding.md R74. -/
inductive Instr where
  /-- START, opcode 0x1 (40_bus_protocol.md R101). -/
  | start
  /-- STOP, opcode 0x2 (R103). -/
  | stop
  /-- WRITE_BYTE, opcode 0x3 (R105). -/
  | writeByte (byte : Byte)
  /-- SEND_COMMAND, opcode 0x4 (R109). -/
  | sendCommand (byte : Byte)
  /-- INITIALIZE, opcode 0x5 (41_display_control.md R130). -/
  | initialise
  /-- SET_BRIGHTNESS, opcode 0x6 (R131). -/
  | setBrightness (level : Nat) (on : Bit)
  /-- CLEAR, opcode 0x7 (R133). -/
  | clear
  /-- SET_ADDRESS, opcode 0x8 (R134). -/
  | setAddress (addr : Byte)
  /-- SET_SEGMENTS, opcode 0x9 (R136). -/
  | setSegments
  /-- ENCODE_DIGIT, opcode 0xA (42_formatting.md R150). -/
  | encodeDigit (d : Nat)
  /-- SHOW_NUMBER_AT, opcode 0xB (R159). -/
  | showNumberAt (length pos : Nat) (leadingZero allowNegative : Bit)
  /-- SHOW_NUMBER, opcode 0xC (R160). -/
  | showNumber (leadingZero allowNegative : Bit)
  /-- SHOW_TIME, opcode 0xD (R162). -/
  | showTime (hour minute : Nat) (colonOn : Bit)
  deriving DecidableEq, Repr

end Sys2Proof
end

