-- ==== Sys2Proof/WellFormed.lean ====
section
/-! DEFINITION. Well-formed operations: each operand fits its field of the command word (30_encoding.md R80: "byte, level,
addr, d, hour and minute must be 0..255, and len and pos must be 0..7"). Operands of type `Byte` fit by their type. -/

namespace Sys2Proof

/-- Every operand fits its field (30_encoding.md R80). -/
def Instr.wf : Instr → Bool
  | .start => true
  | .stop => true
  | .writeByte _ => true
  | .sendCommand _ => true
  | .initialise => true
  | .setBrightness level _ => decide (level ≤ 255)
  | .clear => true
  | .setAddress _ => true
  | .setSegments => true
  | .encodeDigit d => decide (d ≤ 255)
  | .showNumberAt length pos _ _ => decide (length ≤ 7) && decide (pos ≤ 7)
  | .showNumber _ _ => true
  | .showTime hour minute _ => decide (hour ≤ 255) && decide (minute ≤ 255)

end Sys2Proof
end

