-- ==== Sys2Proof/Decode.lean ====
section
/-! DEFINITION. The command word (30_encoding.md R70 to R76): its fields, the decoder, total on all words and rejecting the
reserved opcodes by name, and the encoder. -/

namespace Sys2Proof

/-- The operand fields of a command word (30_encoding.md R72). -/
structure CmdFields where
  /-- A, bits [15:8]. -/
  a : Byte
  /-- B, bits [23:16]. -/
  b : Byte
  /-- F0, bit 24. -/
  f0 : Bit
  /-- F1, bit 25. -/
  f1 : Bit
  deriving DecidableEq, Repr

/-- Why the decoder refuses a word: there is one reason (30_encoding.md R75, R83). -/
inductive DecodeError where
  /-- A reserved opcode, 0x0, 0xE or 0xF. -/
  | reservedOpcode (op : BitVec 4)
  deriving DecidableEq, Repr

/-- OP = word[3:0] (30_encoding.md R72). -/
def opField (w : Word) : BitVec 4 := w.extractLsb' 0 4

/-- The operand fields of a word (30_encoding.md R72). -/
def CmdFields.ofWord (w : Word) : CmdFields where
  a := w.extractLsb' 8 8
  b := w.extractLsb' 16 8
  f0 := w.getLsbD 24
  f1 := w.getLsbD 25

/-- All fields zero. -/
def CmdFields.zero : CmdFields := ⟨0#8, 0#8, false, false⟩

/-- The word with opcode `op`, the given fields, and reserved bits 7:4 and 31:26 zero (30_encoding.md R72). -/
def CmdFields.toWord (op : BitVec 4) (f : CmdFields) : Word :=
  BitVec.ofNat 32
    (op.toNat + 2 ^ 8 * f.a.toNat + 2 ^ 16 * f.b.toNat + 2 ^ 24 * f.f0.toNat + 2 ^ 25 * f.f1.toNat)

/-- LEN = A[2:0] of SHOW_NUMBER_AT (30_encoding.md R73 (d)). -/
def lenField (a : Byte) : Nat := a.toNat % 8

/-- POS = A[6:4] of SHOW_NUMBER_AT (30_encoding.md R73 (e)). -/
def posField (a : Byte) : Nat := a.toNat / 16 % 8

/-- The operation an opcode and operand fields select (30_encoding.md R71, R74). -/
def decodeFields (op : BitVec 4) (f : CmdFields) : Except DecodeError Instr :=
  match op.toNat with
  | 0x1 => .ok .start
  | 0x2 => .ok .stop
  | 0x3 => .ok (.writeByte f.a)
  | 0x4 => .ok (.sendCommand f.a)
  | 0x5 => .ok .initialise
  | 0x6 => .ok (.setBrightness f.a.toNat f.f0)
  | 0x7 => .ok .clear
  | 0x8 => .ok (.setAddress f.a)
  | 0x9 => .ok .setSegments
  | 0xA => .ok (.encodeDigit f.a.toNat)
  | 0xB => .ok (.showNumberAt (lenField f.a) (posField f.a) f.f0 f.f1)
  | 0xC => .ok (.showNumber f.f0 f.f1)
  | 0xD => .ok (.showTime f.a.toNat f.b.toNat f.f0)
  | _ => .error (.reservedOpcode op)

/-- The decoder: every word is one operation or a reserved opcode (30_encoding.md R83). -/
def decode (w : Word) : Except DecodeError Instr := decodeFields (opField w) (CmdFields.ofWord w)

/-- The opcode of an operation (30_encoding.md R74). -/
def Instr.opcode : Instr → BitVec 4
  | .start => 0x1#4
  | .stop => 0x2#4
  | .writeByte _ => 0x3#4
  | .sendCommand _ => 0x4#4
  | .initialise => 0x5#4
  | .setBrightness _ _ => 0x6#4
  | .clear => 0x7#4
  | .setAddress _ => 0x8#4
  | .setSegments => 0x9#4
  | .encodeDigit _ => 0xA#4
  | .showNumberAt _ _ _ _ => 0xB#4
  | .showNumber _ _ => 0xC#4
  | .showTime _ _ _ => 0xD#4

/-- The A field of SHOW_NUMBER_AT: LEN in [2:0], POS in [6:4], bits 3 and 7 as presented, since that format ignores them
(30_encoding.md R71). -/
def packLenPos (length pos : Nat) (raw : Byte) : Byte :=
  BitVec.ofNat 8
    (length % 8 + 8 * (raw.getLsbD 3).toNat + 16 * (pos % 8) + 128 * (raw.getLsbD 7).toNat)

/-- The operand fields presented for `i`: those its format uses hold its operands, and those it ignores are as `raw` has
them (30_encoding.md R71, R76). An operand too wide for its field is truncated. DESIGN CHOICE, log 12 (safe). -/
def Instr.overlay (i : Instr) (raw : CmdFields) : CmdFields :=
  match i with
  | .start => raw
  | .stop => raw
  | .writeByte byte => { raw with a := byte }
  | .sendCommand byte => { raw with a := byte }
  | .initialise => raw
  | .setBrightness level on => { raw with a := BitVec.ofNat 8 level, f0 := on }
  | .clear => raw
  | .setAddress addr => { raw with a := addr }
  | .setSegments => raw
  | .encodeDigit d => { raw with a := BitVec.ofNat 8 d }
  | .showNumberAt length pos lz an => { raw with a := packLenPos length pos raw.a, f0 := lz, f1 := an }
  | .showNumber lz an => { raw with f0 := lz, f1 := an }
  | .showTime hour minute colon =>
    { raw with a := BitVec.ofNat 8 hour, b := BitVec.ofNat 8 minute, f0 := colon }

/-- The command word of an operation, every ignored bit 0 (30_encoding.md R71, R72). -/
def encode (i : Instr) : Word := (i.overlay .zero).toWord i.opcode

/-- The bits of a command word that its opcode's format uses (30_encoding.md R71); for a reserved opcode, OP alone. -/
def usedMask (op : BitVec 4) : Word :=
  match op.toNat with
  | 0x3 => 0x0000FF0F#32
  | 0x4 => 0x0000FF0F#32
  | 0x6 => 0x0100FF0F#32
  | 0x8 => 0x0000FF0F#32
  | 0xA => 0x0000FF0F#32
  | 0xB => 0x0300770F#32
  | 0xC => 0x0300000F#32
  | 0xD => 0x01FFFF0F#32
  | _ => 0x0000000F#32

/-- A word of the opcode table, `nbits` wide, as the 32-bit command word it is: bits above `nbits` are 0. -/
def tableWord (nbits w : Nat) : Word := BitVec.ofNat 32 (w % 2 ^ nbits)

/-- The operation the decoder reads from an opcode-table word. -/
def decodeTableWord (nbits w : Nat) : Option Instr :=
  match decode (tableWord nbits w) with
  | .ok i => some i
  | .error _ => none

end Sys2Proof
end

