-- ==== Sys2Proof/Machine/State.lean ====
section
/-! DEFINITION. The state of the engine and of what surrounds it (10_state.md), as plain data, and its reset value (R39).
The engine has no memory beyond its registers (20_memory.md, opening words), so State has no byte memory. -/

namespace Sys2Proof.Machine

/-- The two pins of the pin port (10_state.md R30). -/
inductive PinName where
  | clk
  | dio
  deriving DecidableEq, Repr

/-- A pin's direction: `input` is "input-with-pull-up", `output` is output (10_state.md R30). -/
inductive Dir where
  | input
  | output
  deriving DecidableEq, Repr

/-- A pin: its direction and its output latch (10_state.md R30). -/
structure Pin where
  dir : Dir
  lat : Bit
  deriving DecidableEq, Repr

/-- A released pin, as reset leaves it: an input with its latch at 1 (10_state.md R39). -/
def Pin.released : Pin := ⟨.input, true⟩

/-- A driven pin: an output showing `v`. -/
def Pin.driven (v : Bit) : Pin := ⟨.output, v⟩

/-- The micro-steps (10_state.md R36). -/
inductive MicroStep where
  | dirOut (p : PinName)
  | dirIn (p : PinName)
  | drive (p : PinName) (v : Bit)
  | wait
  | sample
  | setBright (v : Byte)
  | setFrameOut (f : Word)
  | setResult (v : Byte)
  | publishAck
  deriving DecidableEq, Repr

/-- The operand latch `lat` (10_state.md R27). -/
structure Latch where
  op : BitVec 4
  a : Byte
  b : Byte
  f0 : Bit
  f1 : Bit
  /-- `s32(VALUE)` at acceptance. -/
  value : Int
  frame : Word
  deriving DecidableEq, Repr

/-- The fields of `STATUS` (10_state.md R25). Its reserved bits hold nothing: they read 0 and ignore writes. -/
structure Status where
  busy : Bit
  ack : Bit
  ackValid : Bit
  init : Bit
  errIllegal : Bit
  errBusy : Bit
  errNoinit : Bit
  deriving DecidableEq, Repr

/-- `STATUS` with every field 0, its reset value (10_state.md R39). -/
def Status.zero : Status := ⟨false, false, false, false, false, false, false⟩

/-- What the bus monitor records of one step (10_state.md R37): a pin micro-step, `Sample` with the value it took, or, as
the model's own mark, a reset (log 7). -/
inductive BusEvent where
  | dirOut (p : PinName)
  | dirIn (p : PinName)
  | drive (p : PinName) (v : Bit)
  | wait
  | sample (v : Bit)
  | reset
  deriving DecidableEq, Repr

/-- One entry of the bus trace: the event and the levels on the two lines after it (10_state.md R31, R37).
DESIGN CHOICE: the levels are recorded beside the event, log 7 (safe). -/
structure TraceEntry where
  ev : BusEvent
  clk : Bit
  dio : Bit
  deriving DecidableEq, Repr

/-- A host access: `MemRead(addr, size)` or `MemWrite(addr, size, v)` (20_memory.md R50). -/
inductive HostAccess where
  | read (addr size : Nat)
  | write (addr size : Nat) (v : Word)
  deriving DecidableEq, Repr

/-- What takes the next step (10_state.md R38). DESIGN CHOICE: the interleaving is a list of these, log 1 (safe). -/
inductive Event where
  /-- A host step. -/
  | host (a : HostAccess)
  /-- The host's busy-wait `POLL` (30_encoding.md R81), log 9. -/
  | poll
  /-- An engine step. -/
  | engine
  /-- A reset step. -/
  | reset
  deriving DecidableEq, Repr

/-- The state. The first block is the spec's (10_state.md); `cfg` holds the constants of the instance (00_scope.md R7); the last block
is the model's own: the peer's level, what the host port shows, the schedule and the recorded trace. -/
structure State where
  /-- `VALUE` (R26). -/
  value : Word
  /-- `FRAME` (R26). -/
  frame : Word
  /-- `STATUS` (R25). -/
  status : Status
  /-- `BRIGHT[7:0]` (R24). -/
  bright : Byte
  /-- `FRAME_OUT` (R28). -/
  frameOut : Word
  /-- `RESULT[7:0]` (R29). -/
  result : Byte
  /-- `prog`, the micro-steps still to perform (R21, R33). -/
  prog : List MicroStep
  /-- The operand latch (R27). -/
  lat : Latch
  /-- `ack_latch` (R33). -/
  ackLatch : Bit
  /-- The CLK pin (R30). -/
  clk : Pin
  /-- The DIO pin (R30). -/
  dio : Pin
  /-- The parameters (00_scope.md R7), which no step changes. -/
  cfg : Config
  /-- `peer_dio`, the level the peer leaves on DIO (R31). -/
  peerDio : Bit
  /-- The levels the peer will leave in the coming acknowledgment slots (40_bus_protocol.md R106), log 2. -/
  peerDraws : List Bit
  /-- Where the free draw is taken once `peerDraws` is empty, log 2. -/
  drawCount : Nat
  /-- The word on the host port's write-data lines: the latest `MemWrite`'s, log 6. -/
  wdata : Word
  /-- The word on the host port's read-data lines: the latest `MemRead`'s, log 6. -/
  rdata : Word
  /-- The schedule still to come, log 1. -/
  inputs : List Event
  /-- The bus trace so far, oldest first (R37), log 7. -/
  trace : List TraceEntry
  deriving DecidableEq, Repr

/-- Why the machine stops with a fault: never. "No behaviour of the engine is a fault or stuck case"
(93_implementation_defined.md, Part 2), so there is no constructor (safe). -/
inductive Fault
  deriving DecidableEq, Repr

/-- Why a step has no meaning in the model. -/
inductive Refusal where
  /-- An instruction without a meaning yet: raised by `exec`'s refused arms alone, of which there is none (safe). -/
  | notModelled (mnemonic : String)
  /-- Raised by a host access that is not an aligned 32-bit access to the register window (20_memory.md R51,
  93_implementation_defined.md U-1: "the model gives the host no step for it"). Safe: the machine stops. Log 8. -/
  | undefinedAccess (addr size : Nat)
  deriving DecidableEq, Repr

/-- The state that a reset leaves on an engine with parameters `c` (10_state.md R39), nothing around it having happened. -/
def State.resetOf (c : Config) : State where
  value := 0#32
  frame := 0#32
  status := .zero
  bright := c.cmdDisplayOn ||| 7#8
  frameOut := 0#32
  result := 0#8
  prog := []
  lat := ⟨0#4, 0#8, 0#8, false, false, 0, 0#32⟩
  ackLatch := true
  clk := .released
  dio := .released
  cfg := c
  peerDio := true
  peerDraws := []
  drawCount := 0
  wdata := 0#32
  rdata := 0#32
  inputs := []
  trace := []

/-- The machine right after reset (10_state.md R39, 70_reset_and_hazards.md R200), with the default parameters of
00_scope.md R7 (log 4, log 5) and nothing scheduled (log 1, log 11). -/
def State.reset : State := State.resetOf Config.default

end Sys2Proof.Machine
end

