-- ==== Sys2Proof/Machine/Flags.lean ====
section
/-! DEFINITION. The fields of `STATUS` (10_state.md R25, R35): how the word is read, and each way a field changes. -/

namespace Sys2Proof.Machine

/-- The three errors of a command word (60_exceptions.md R186). -/
inductive CmdError where
  | illegal
  | busy
  | noinit
  deriving DecidableEq, Repr

/-- The error's cause code, which is its `STATUS` bit index (60_exceptions.md R186). -/
def CmdError.code : CmdError → Nat
  | .illegal => 4
  | .busy => 5
  | .noinit => 6

/-- `STATUS` as a host reads it; bits 31:7 are 0 (10_state.md R25). -/
def Status.toWord (t : Status) : Word :=
  BitVec.ofNat 32
    (t.busy.toNat + 2 * t.ack.toNat + 4 * t.ackValid.toNat + 8 * t.init.toNat + 16 * t.errIllegal.toNat
      + 32 * t.errBusy.toNat + 64 * t.errNoinit.toNat)

/-- A host write of `w` to `STATUS`: it clears each of bits 6:4 for which `w` has a 1 and changes nothing else
(10_state.md R25). -/
def Status.writeOneClear (t : Status) (w : Word) : Status :=
  { t with
    errIllegal := t.errIllegal && !w.getLsbD 4
    errBusy := t.errBusy && !w.getLsbD 5
    errNoinit := t.errNoinit && !w.getLsbD 6 }

/-- `raise e`: set the error's sticky flag (60_exceptions.md R181, R186). -/
def Status.raise (t : Status) (e : CmdError) : Status :=
  match e with
  | .illegal => { t with errIllegal := true }
  | .busy => { t with errBusy := true }
  | .noinit => { t with errNoinit := true }

/-- `PublishAck` on a sampled level: ACK is 1 when the level was low (10_state.md R36). -/
def Status.publishAck (t : Status) (level : Bit) : Status :=
  { t with ack := !level, ackValid := true }

end Sys2Proof.Machine
end

