-- ==== Sys2Proof/Machine/Operands.lean ====
section
/-! DEFINITION. The operand forms (30_encoding.md R73): the clamps, masks and readings each operation's rule applies to its
operands, the bytes they make on the bus, and the operand latch (10_state.md R27). -/

namespace Sys2Proof.Machine

/-- `s32(w)`: a 32-bit pattern as a two's-complement integer (00_scope.md R9). -/
def s32 (w : Word) : Int := w.toInt

/-- `BrightByte(level, on)`, the level clamped to 7 (41_display_control.md R132). -/
def brightByte (c : Config) (level : Nat) (on : Bit) : Byte :=
  (if on then c.cmdDisplayOn else c.cmdDisplayOff) ||| BitVec.ofNat 8 (min level 7)

/-- The fixed-address command byte, `CMD_ADDR | (addr & 0x03)` (41_display_control.md R134). -/
def addressByte (c : Config) (addr : Byte) : Byte := c.cmdAddr ||| (addr &&& 0x03#8)

/-- Position `k` of a frame, bits [8k+7:8k] (10_state.md R26). -/
def frameByte (f : Word) (k : Nat) : Byte := f.extractLsb' (8 * k) 8

/-- `{p[3], p[2], p[1], p[0]}`: position 0 in bits [7:0] (42_formatting.md R158). -/
def packFrame (p : Vector Byte 4) : Word := p[3] ++ p[2] ++ p[1] ++ p[0]

/-- The clamped field (42_formatting.md R152): its length L and its position P, as `(L, P)`. -/
def clampField (length pos : Nat) : Nat × Nat :=
  let l := min length 4
  let p := min pos 3
  (if p + l > 4 then 4 - p else l, p)

/-- Sign determination (42_formatting.md R153): the negative flag and the magnitude, computed exactly. -/
def signMagnitude (v : Int) (allowNegative : Bit) : Bit × Nat :=
  if v < 0 then (if allowNegative then (true, v.natAbs) else (false, 0)) else (false, v.natAbs)

/-- The operand latch a command word leaves (10_state.md R27). -/
def Latch.ofWord (w value frame : Word) : Latch where
  op := opField w
  a := (CmdFields.ofWord w).a
  b := (CmdFields.ofWord w).b
  f0 := (CmdFields.ofWord w).f0
  f1 := (CmdFields.ofWord w).f1
  value := s32 value
  frame := frame

/-- The operand latch that accepting `i` leaves: R27's copies of the fields `i`'s format uses, of VALUE and of FRAME; the
fields it ignores are as the write-data lines have them (log 6). -/
def State.latchOf (s : State) (i : Instr) : Latch :=
  let f := i.overlay (CmdFields.ofWord s.wdata)
  { op := i.opcode, a := f.a, b := f.b, f0 := f.f0, f1 := f.f1, value := s32 s.value, frame := s.frame }

end Sys2Proof.Machine
end

