-- ==== Sys2Proof/Machine/Formatter.lean ====
section
/-! DEFINITION. The three pure functions of 42_formatting.md: EncodeDigit (R151), FormatNumber (R152 to R158) and FormatTime
(R161). -/

namespace Sys2Proof.Machine

/-- `EncodeDigit(d)`: the glyph of 0 to 9, and blank otherwise (42_formatting.md R151). -/
def glyphOf (c : Config) (d : Nat) : Byte :=
  if h : d < 10 then c.glyph[d] else Config.blank

/-- The loop of 42_formatting.md R154, filling positions `P + n - 1` down to `P`. `first` holds at the field's rightmost
position. It answers the positions and the magnitude left over. -/
def fillDigits (c : Config) (leadingZero : Bit) (P : Nat) :
    (n : Nat) → (first : Bool) → (mag : Nat) → Vector Byte 4 → Vector Byte 4 × Nat
  | 0, _, mag, p => (p, mag)
  | n + 1, first, mag, p =>
    if !first && mag == 0 && !leadingZero then
      fillDigits c leadingZero P n false mag (p.setIfInBounds (P + n) Config.blank)
    else
      fillDigits c leadingZero P n false (mag / 10) (p.setIfInBounds (P + n) (glyphOf c (mag % 10)))

/-- Every position of the field `[P, P+n)` set to the dash glyph (42_formatting.md R155). -/
def dashField (P : Nat) : (n : Nat) → Vector Byte 4 → Vector Byte 4
  | 0, p => p
  | n + 1, p => dashField P n (p.setIfInBounds (P + n) Config.dash)

/-- Steps 3 to 6 of FormatNumber on a clamped field `[P, P+L)` (42_formatting.md R154 to R157). -/
def formatField (c : Config) (neg : Bit) (mag L P : Nat) (leadingZero : Bit) : Vector Byte 4 :=
  let r := fillDigits c leadingZero P L true mag (Vector.replicate 4 Config.blank)
  if r.2 ≠ 0 then dashField P L r.1
  else if neg ∧ 0 < L then r.1.setIfInBounds P Config.dash
  else r.1

/-- `FormatNumber(v, length, pos, leadingZero, allowNegative)` (42_formatting.md R158). -/
def formatNumber (c : Config) (v : Int) (length pos : Nat) (leadingZero allowNegative : Bit) : Word :=
  let sm := signMagnitude v allowNegative
  let lp := clampField length pos
  packFrame (formatField c sm.1 sm.2 lp.1 lp.2 leadingZero)

/-- `FormatTime(h, m, colon)` (42_formatting.md R161). -/
def formatTime (c : Config) (h m : Nat) (colon : Bit) : Word :=
  let p : Vector Byte 4 :=
    #v[glyphOf c (h / 10), glyphOf c (h % 10), glyphOf c (m / 10), glyphOf c (m % 10)]
  let k := c.indicatorPos
  packFrame (if colon then p.set k (p[k] ||| c.indicatorMask) else p)

end Sys2Proof.Machine
end

