-- ==== Sys2Proof/Machine/Sequences.lean ====
section
/-! DEFINITION. The micro-step sequences of 40_bus_protocol.md and 41_display_control.md, and what each operation expands to
(the `Expand` of its rule). -/

namespace Sys2Proof.Machine

/-- `START_SEQ` (40_bus_protocol.md R100). -/
def startSeq : List MicroStep :=
  [.dirOut .dio, .drive .dio true, .wait, .drive .clk true, .wait, .drive .dio false, .wait, .drive .clk false, .wait]

/-- `STOP_SEQ` (40_bus_protocol.md R102). -/
def stopSeq : List MicroStep :=
  [.dirOut .dio, .drive .clk false, .wait, .drive .dio false, .wait, .drive .clk true, .wait, .drive .dio true, .wait]

/-- One data bit of `WRITE_BYTE_SEQ`: clock low, set data level, clock high (40_bus_protocol.md R104). -/
def bitSeq (v : Bit) : List MicroStep :=
  [.drive .clk false, .wait, .drive .dio v, .wait, .drive .clk true, .wait]

/-- The acknowledgment slot of `WRITE_BYTE_SEQ` (40_bus_protocol.md R104). -/
def ackSeq : List MicroStep :=
  [.drive .clk false, .wait, .dirIn .dio, .wait, .drive .clk true, .wait, .sample, .drive .clk false, .wait,
    .dirOut .dio, .drive .dio false, .wait]

/-- `WRITE_BYTE_SEQ(b)`: bit 0 first (40_bus_protocol.md R104). -/
def writeByteSeq (b : Byte) : List MicroStep :=
  bitSeq (b.getLsbD 0) ++ bitSeq (b.getLsbD 1) ++ bitSeq (b.getLsbD 2) ++ bitSeq (b.getLsbD 3)
    ++ bitSeq (b.getLsbD 4) ++ bitSeq (b.getLsbD 5) ++ bitSeq (b.getLsbD 6) ++ bitSeq (b.getLsbD 7) ++ ackSeq

/-- `SEND_COMMAND_SEQ(c)` (40_bus_protocol.md R108). -/
def sendCommandSeq (b : Byte) : List MicroStep := startSeq ++ writeByteSeq b ++ stopSeq

/-- `SET_BRIGHTNESS_SEQ(level, on)` (41_display_control.md R132). -/
def setBrightnessSeq (c : Config) (level : Nat) (on : Bit) : List MicroStep :=
  .setBright (brightByte c level on) :: sendCommandSeq (brightByte c level on)

/-- `SET_SEGMENTS_SEQ(f)`, with `bright` the value `BRIGHT` holds when it begins (41_display_control.md R135). -/
def setSegmentsSeq (c : Config) (f : Word) (bright : Byte) : List MicroStep :=
  .setFrameOut f :: (sendCommandSeq c.cmdDataAuto
    ++ (startSeq ++ writeByteSeq c.cmdAddr ++ writeByteSeq (frameByte f 0) ++ writeByteSeq (frameByte f 1)
      ++ writeByteSeq (frameByte f 2) ++ writeByteSeq (frameByte f 3) ++ stopSeq)
    ++ sendCommandSeq bright)

/-- The expansion of WRITE_BYTE (40_bus_protocol.md R105). -/
def writeByteProg (b : Byte) : List MicroStep := writeByteSeq b ++ [.publishAck]

/-- The expansion of INITIALIZE (41_display_control.md R130). The brightness byte it resends is the one it has just set
(10_state.md R33). -/
def initialiseProg (c : Config) : List MicroStep :=
  [.dirOut .clk, .dirOut .dio, .drive .clk true, .wait, .drive .dio true, .wait]
    ++ setBrightnessSeq c 7 true ++ setSegmentsSeq c 0#32 (brightByte c 7 true)

/-- The expansion of SET_ADDRESS (41_display_control.md R134). -/
def setAddressProg (c : Config) (addr : Byte) : List MicroStep := sendCommandSeq (addressByte c addr)

/-- The expansion of ENCODE_DIGIT (42_formatting.md R150). -/
def encodeDigitProg (c : Config) (d : Nat) : List MicroStep := [.setResult (glyphOf c d)]

/-- The expansion of SHOW_NUMBER_AT (42_formatting.md R159). -/
def showNumberAtProg (c : Config) (v : Int) (length pos : Nat) (lz an : Bit) (bright : Byte) : List MicroStep :=
  setSegmentsSeq c (formatNumber c v length pos lz an) bright

/-- The expansion of SHOW_TIME (42_formatting.md R162). -/
def showTimeProg (c : Config) (hour minute : Nat) (colon : Bit) (bright : Byte) : List MicroStep :=
  setSegmentsSeq c (formatTime c hour minute colon) bright

/-- `Expand(lat, BRIGHT)` (10_state.md R33): the micro-steps of the operation in the latch, a pure function of the latch and of
`BRIGHT` at acceptance. For an opcode that is never accepted it is empty. -/
def expand (c : Config) (l : Latch) (bright : Byte) : List MicroStep :=
  match l.op.toNat with
  | 0x1 => startSeq
  | 0x2 => stopSeq
  | 0x3 => writeByteProg l.a
  | 0x4 => sendCommandSeq l.a
  | 0x5 => initialiseProg c
  | 0x6 => setBrightnessSeq c l.a.toNat l.f0
  | 0x7 => setSegmentsSeq c 0#32 bright
  | 0x8 => setAddressProg c l.a
  | 0x9 => setSegmentsSeq c l.frame bright
  | 0xA => encodeDigitProg c l.a.toNat
  | 0xB => showNumberAtProg c l.value (lenField l.a) (posField l.a) l.f0 l.f1 bright
  | 0xC => showNumberAtProg c l.value 4 0 l.f0 l.f1 bright
  | 0xD => showTimeProg c l.a.toNat l.b.toNat l.f0 bright
  | _ => []

/-- The number of `Wait`s in a sequence (70_reset_and_hazards.md R211). -/
def waitCount (p : List MicroStep) : Nat := p.countP (fun m => decide (m = .wait))

/-- The least duration of a sequence in microseconds (70_reset_and_hazards.md R212). No rule depends on it. -/
def minDuration (c : Config) (p : List MicroStep) : Nat := waitCount p * c.bitDelay

end Sys2Proof.Machine
end

