-- ==== Sys2Proof/Machine/Ops.lean ====
section
/-! DEFINITION. The named operations on the state: the wires, the micro-steps (10_state.md R36), the engine step, the
acceptance step and its rejections (60_exceptions.md R181), the registers of the window (10_state.md R22) and reset
(70_reset_and_hazards.md R200). -/

namespace Sys2Proof.Machine

/-! ### Pins and wires -/

/-- A pin of the port. -/
def State.pin (s : State) (p : PinName) : Pin :=
  match p with
  | .clk => s.clk
  | .dio => s.dio

/-- A pin of the port replaced. -/
def State.setPin (s : State) (p : PinName) (q : Pin) : State :=
  match p with
  | .clk => { s with clk := q }
  | .dio => { s with dio := q }

/-- `CLK_line` (10_state.md R31): the latch of a driven pin, and 1 when released. PRESUMED: the peer never drives CLK and the
pull-up holds a released CLK high (K-6), log 14 (unsafe). -/
def State.clkLine (s : State) : Bit :=
  match s.clk.dir with
  | .output => s.clk.lat
  | .input => true

/-- `DIO_line` (10_state.md R31): the latch of a driven pin, and the peer's level when released. -/
def State.dioLine (s : State) : Bit :=
  match s.dio.dir with
  | .output => s.dio.lat
  | .input => s.peerDio

/-- The level the peer leaves in the next acknowledgment slot: the next supplied draw, or the free one (40_bus_protocol.md
R106), log 2. -/
def State.nextDraw (s : State) : Bit :=
  match s.peerDraws with
  | [] => Config.freeDraw s.drawCount
  | d :: _ => d

/-- DIO is released: the peer takes its draw and holds it for the whole acknowledgment slot (40_bus_protocol.md R106,
90_conflicts.md C2). DEDUCED: the draw is taken where the slot begins, log 2 (safe). -/
def State.takeDraw (s : State) : State :=
  match s.peerDraws with
  | [] => { s with peerDio := Config.freeDraw s.drawCount, drawCount := s.drawCount + 1 }
  | d :: rest => { s with peerDio := d, peerDraws := rest }

/-- The bus monitor records `ev` with the line levels after it (10_state.md R37), log 7. -/
def State.record (s : State) (ev : BusEvent) : State :=
  { s with trace := s.trace ++ [⟨ev, s.clkLine, s.dioLine⟩] }

/-! ### The engine -/

/-- The effect of one micro-step (the table of 10_state.md R36), its removal from `prog` aside. -/
def State.perform (s : State) (m : MicroStep) : State :=
  match m with
  | .dirOut p => (s.setPin p { s.pin p with dir := .output }).record (.dirOut p)
  | .dirIn .clk => (s.setPin .clk { s.clk with dir := .input }).record (.dirIn .clk)
  | .dirIn .dio => (s.setPin .dio { s.dio with dir := .input }).takeDraw.record (.dirIn .dio)
  | .drive p v => (s.setPin p { s.pin p with lat := v }).record (.drive p v)
  | .wait => s.record .wait
  | .sample => { s with ackLatch := s.dioLine }.record (.sample s.dioLine)
  | .setBright v => { s with bright := v }
  | .setFrameOut f => { s with frameOut := f }
  | .setResult v => { s with result := v }
  | .publishAck => { s with status := s.status.publishAck s.ackLatch }

/-- `prog` replaced. -/
def State.withProg (s : State) (p : List MicroStep) : State := { s with prog := p }

/-- `STATUS.BUSY` replaced. -/
def State.withBusy (s : State) (b : Bit) : State := { s with status := { s.status with busy := b } }

/-- The end of an engine step: if `prog` is then empty, `STATUS.BUSY` is 0 (10_state.md R36). -/
def State.settleBusy (s : State) : State :=
  match s.prog with
  | [] => s.withBusy false
  | _ :: _ => s

/-- The engine step (10_state.md R36): remove the head of `prog` and perform it. With `prog` empty it is not enabled, and
nothing changes (log 10). -/
def State.engineStep (s : State) : State :=
  match s.prog with
  | [] => s
  | m :: rest => ((s.withProg rest).perform m).settleBusy

/-- `n` engine steps, no host step between them. -/
def State.engineRun : Nat → State → State
  | 0, s => s
  | n + 1, s => State.engineRun n s.engineStep

/-- The operation in `prog` run to its end, which takes `len(prog)` engine steps (10_state.md R38). -/
def State.complete (s : State) : State := State.engineRun s.prog.length s

/-! ### Acceptance and rejection -/

/-- `raise e`: a rejected word sets its flag and changes nothing else (60_exceptions.md R181). This is the one way an error is
taken: nothing is saved and no control is transferred (R188). -/
def State.raise (s : State) (e : CmdError) : State := { s with status := s.status.raise e }

/-- The way back from an error: a host write to `STATUS` (10_state.md R25, 60_exceptions.md R189). -/
def State.writeStatus (s : State) (w : Word) : State := { s with status := s.status.writeOneClear w }

/-- Whether an opcode may be accepted while `INIT = 0` (60_exceptions.md R183): INITIALIZE and ENCODE_DIGIT alone. -/
def allowedBeforeInit (op : BitVec 4) : Bool := op == 0x5#4 || op == 0xA#4

/-- The effect of an accepted command (60_exceptions.md R181): the latch, INIT for INITIALIZE, `prog` and BUSY. -/
def State.accept (s : State) (i : Instr) (p : List MicroStep) : State :=
  { s with
    lat := s.latchOf i
    prog := p
    status := { s.status with busy := true, init := s.status.init || i.opcode == 0x5#4 } }

/-- The acceptance step for a legal opcode that expands to `p` (60_exceptions.md R181, R182, R183). -/
def State.issue (s : State) (i : Instr) (p : List MicroStep) : State :=
  if s.status.busy then s.raise .busy
  else if !s.status.init && !allowedBeforeInit i.opcode then s.raise .noinit
  else s.accept i p

/-- The acceptance step for a reserved opcode (60_exceptions.md R181, R184, R185). -/
def State.rejectReserved (s : State) : State :=
  if s.status.busy then s.raise .busy else s.raise .illegal

/-! ### The host port and the schedule -/

/-- The write-data lines replaced (log 6). -/
def State.withWdata (s : State) (w : Word) : State := { s with wdata := w }

/-- The read-data lines replaced (log 6). -/
def State.withRdata (s : State) (w : Word) : State := { s with rdata := w }

/-- The schedule replaced (log 1). -/
def State.withInputs (s : State) (l : List Event) : State := { s with inputs := l }

/-! ### The register window -/

/-- The offset in the window that an access reaches: aligned, 32 bits wide, inside the window (20_memory.md R50, R51). -/
def windowOffset (c : Config) (addr size : Nat) : Option Nat :=
  if size = 4 ∧ c.baseAddr ≤ addr ∧ addr < c.baseAddr + 32 ∧ (addr - c.baseAddr) % 4 = 0 then
    some (addr - c.baseAddr)
  else none

/-- The value of the register at an offset of the window (10_state.md R22 to R29, 20_memory.md R53). CMD (0x00) and the
reserved offset 0x1C read 0. -/
def State.readReg (s : State) (off : Nat) : Word :=
  match off with
  | 0x04 => s.value
  | 0x08 => s.frame
  | 0x0C => s.status.toWord
  | 0x10 => s.bright.setWidth 32
  | 0x14 => s.frameOut
  | 0x18 => s.result.setWidth 32
  | _ => 0#32

/-- A host write to a register other than CMD (20_memory.md R52): VALUE and FRAME store the word, STATUS clears error flags,
and the read-only registers and the reserved offset are unchanged. -/
def State.writeReg (s : State) (off : Nat) (v : Word) : State :=
  match off with
  | 0x04 => { s with value := v }
  | 0x08 => { s with frame := v }
  | 0x0C => s.writeStatus v
  | _ => s

/-! ### Reset -/

/-- The reset step (70_reset_and_hazards.md R200, R201): every piece of the engine's state takes its value of 10_state.md R39,
`prog` is discarded, and both lines rise. The parameters, the schedule, the peer's coming draws, what the host port shows and the
trace recorded so far are no state of the engine and stay (log 15). -/
def State.resetStep (s : State) : State :=
  { State.resetOf s.cfg with
    peerDraws := s.peerDraws
    drawCount := s.drawCount
    wdata := s.wdata
    rdata := s.rdata
    inputs := s.inputs
    trace := s.trace }.record .reset

end Sys2Proof.Machine
end

