-- ==== Sys2Proof/Machine/Bus.lean ====
section
/-! DEFINITION. The operations of the Bus Protocol Layer (40_bus_protocol.md): START, STOP, WRITE_BYTE, SEND_COMMAND. -/

namespace Sys2Proof.Machine

/-- START (40_bus_protocol.md R101). -/
def execStart (s : State) : Host.Outcome State Fault Refusal := .next (s.issue .start startSeq)

/-- STOP (40_bus_protocol.md R103). -/
def execStop (s : State) : Host.Outcome State Fault Refusal := .next (s.issue .stop stopSeq)

/-- WRITE_BYTE (40_bus_protocol.md R105). -/
def execWriteByte (byte : Byte) (s : State) : Host.Outcome State Fault Refusal :=
  .next (s.issue (.writeByte byte) (writeByteProg byte))

/-- SEND_COMMAND (40_bus_protocol.md R109). -/
def execSendCommand (byte : Byte) (s : State) : Host.Outcome State Fault Refusal :=
  .next (s.issue (.sendCommand byte) (sendCommandSeq byte))

end Sys2Proof.Machine
end

