-- ==== Sys2Proof/Machine/Control.lean ====
section
/-! DEFINITION. The commands and addressing operations of the Display Control Layer (41_display_control.md): INITIALIZE,
SET_BRIGHTNESS, CLEAR, SET_ADDRESS, SET_SEGMENTS. -/

namespace Sys2Proof.Machine

/-- INITIALIZE (41_display_control.md R130). It alone sets INIT, at acceptance. -/
def execInitialise (s : State) : Host.Outcome State Fault Refusal :=
  .next (s.issue .initialise (initialiseProg s.cfg))

/-- SET_BRIGHTNESS (41_display_control.md R131). -/
def execSetBrightness (level : Nat) (on : Bit) (s : State) : Host.Outcome State Fault Refusal :=
  .next (s.issue (.setBrightness level on) (setBrightnessSeq s.cfg level on))

/-- CLEAR (41_display_control.md R133). -/
def execClear (s : State) : Host.Outcome State Fault Refusal :=
  .next (s.issue .clear (setSegmentsSeq s.cfg 0#32 s.bright))

/-- SET_ADDRESS (41_display_control.md R134). -/
def execSetAddress (addr : Byte) (s : State) : Host.Outcome State Fault Refusal :=
  .next (s.issue (.setAddress addr) (setAddressProg s.cfg addr))

/-- SET_SEGMENTS (41_display_control.md R136). -/
def execSetSegments (s : State) : Host.Outcome State Fault Refusal :=
  .next (s.issue .setSegments (setSegmentsSeq s.cfg s.frame s.bright))

end Sys2Proof.Machine
end

