-- ==== Sys2Proof/Machine/Format.lean ====
section
/-! DEFINITION. The formatting operations of the Display Control Layer (42_formatting.md): ENCODE_DIGIT, SHOW_NUMBER_AT,
SHOW_NUMBER, SHOW_TIME. -/

namespace Sys2Proof.Machine

/-- ENCODE_DIGIT (42_formatting.md R150). -/
def execEncodeDigit (d : Nat) (s : State) : Host.Outcome State Fault Refusal :=
  .next (s.issue (.encodeDigit d) (encodeDigitProg s.cfg d))

/-- SHOW_NUMBER_AT (42_formatting.md R159). -/
def execShowNumberAt (length pos : Nat) (lz an : Bit) (s : State) : Host.Outcome State Fault Refusal :=
  .next (s.issue (.showNumberAt length pos lz an) (showNumberAtProg s.cfg (s32 s.value) length pos lz an s.bright))

/-- SHOW_NUMBER (42_formatting.md R160). -/
def execShowNumber (lz an : Bit) (s : State) : Host.Outcome State Fault Refusal :=
  .next (s.issue (.showNumber lz an) (showNumberAtProg s.cfg (s32 s.value) 4 0 lz an s.bright))

/-- SHOW_TIME (42_formatting.md R162). -/
def execShowTime (hour minute : Nat) (colon : Bit) (s : State) : Host.Outcome State Fault Refusal :=
  .next (s.issue (.showTime hour minute colon) (showTimeProg s.cfg hour minute colon s.bright))

end Sys2Proof.Machine
end

