-- ==== Sys2Proof/Machine/Dispatch.lean ====
section
/-! DEFINITION. One arm per operation: the acceptance step of its command (60_exceptions.md R181). -/

namespace Sys2Proof.Machine

/-- The step a command word of operation `i` takes when it is written to `CMD`. -/
def exec (i : Instr) (s : State) : Host.Outcome State Fault Refusal :=
  match i with
  -- 40_bus_protocol.md
  | .start => Sys2Proof.Machine.execStart s
  | .stop => Sys2Proof.Machine.execStop s
  | .writeByte byte => Sys2Proof.Machine.execWriteByte byte s
  | .sendCommand byte => Sys2Proof.Machine.execSendCommand byte s
  -- 41_display_control.md
  | .initialise => Sys2Proof.Machine.execInitialise s
  | .setBrightness level on => Sys2Proof.Machine.execSetBrightness level on s
  | .clear => Sys2Proof.Machine.execClear s
  | .setAddress addr => Sys2Proof.Machine.execSetAddress addr s
  | .setSegments => Sys2Proof.Machine.execSetSegments s
  -- 42_formatting.md
  | .encodeDigit d => Sys2Proof.Machine.execEncodeDigit d s
  | .showNumberAt length pos lz an => Sys2Proof.Machine.execShowNumberAt length pos lz an s
  | .showNumber lz an => Sys2Proof.Machine.execShowNumber lz an s
  | .showTime hour minute colon => Sys2Proof.Machine.execShowTime hour minute colon s

end Sys2Proof.Machine
end

