-- ==== Sys2Proof/Machine/HostPort.lean ====
section
/-! DEFINITION. The host's side: a command word written to `CMD` (60_exceptions.md R181), an access to the window
(20_memory.md R50 to R53), and whose turn it is (10_state.md R38). -/

namespace Sys2Proof.Machine

/-- A host write of `w` to `CMD`: the operation it decodes to takes its acceptance step, and a reserved opcode is rejected
(60_exceptions.md R181). -/
def State.writeCommand (s : State) (w : Word) : Host.Outcome State Fault Refusal :=
  match decode w with
  | .ok i => exec i s
  | .error _ => .next s.rejectReserved

/-- One host access (20_memory.md R50 to R53): a read shows the register on the read-data lines and changes nothing else; a
write to `CMD` issues a command; any other access than an aligned 32-bit one to the window is refused (log 8). -/
def State.access (s : State) (a : HostAccess) : Host.Outcome State Fault Refusal :=
  match a with
  | .read addr size =>
    match windowOffset s.cfg addr size with
    | none => .refused (.undefinedAccess addr size)
    | some off => .next (s.withRdata (s.readReg off))
  | .write addr size v =>
    match windowOffset s.cfg addr size with
    | none => .refused (.undefinedAccess addr size)
    | some 0 => (s.withWdata v).writeCommand v
    | some off => .next ((s.withWdata v).writeReg off v)

/-- One read of `STATUS` by the busy-wait loop `POLL` (30_encoding.md R81): while bit 0 is 1 the loop goes on, after one
engine turn. DESIGN CHOICE: one engine turn between two reads, log 9 (safe). -/
def State.pollOnce (s : State) (rest : List Event) : State :=
  let r := s.readReg 0x0C
  (s.withRdata r).withInputs (if r.getLsbD 0 then .engine :: .poll :: rest else rest)

/-- The next step: the head of the schedule, and the engine's own when nothing is scheduled (10_state.md R38), log 1. -/
def State.turn (s : State) : Host.Outcome State Fault Refusal :=
  match s.inputs with
  | [] => .next s.engineStep
  | .engine :: rest => .next (s.withInputs rest).engineStep
  | .reset :: rest => .next (s.withInputs rest).resetStep
  | .poll :: rest => .next (s.pollOnce rest)
  | .host a :: rest => (s.withInputs rest).access a

/-- The host's write of a command word to `CMD` put first in the schedule (log 11). -/
def State.presentCommand (s : State) (w : Word) : State :=
  s.withInputs (.host (.write s.cfg.baseAddr 4 w) :: s.inputs)

end Sys2Proof.Machine
end

