-- ==== Sys2Proof/Machine/Step.lean ====
section
/-! DEFINITION. The step of the machine, and how an opcode-table word is made the next thing it runs. -/

namespace Sys2Proof.Machine

/-- One step of the machine (10_state.md R38). -/
def step (s : State) : Host.Outcome State Fault Refusal := s.turn

/-- `s` with the host about to write the opcode-table word `w` to `CMD`, so that the very next step issues it (log 11). -/
def State.withFetchWord (s : State) (nbits w : Nat) : State := s.presentCommand (tableWord nbits w)

end Sys2Proof.Machine
end

