-- ==== Sys2Proof/Machine/HostProgram.lean ====
section
/-! DEFINITION. Host programs in the syntax of 30_encoding.md R80, the pseudo-instructions of R81, as the schedule they
stand for, and the end of a program (70_reset_and_hazards.md R203). -/

namespace Sys2Proof.Machine

/-- The registers of the window by name (10_state.md R22). -/
inductive Reg where
  | CMD
  | VALUE
  | FRAME
  | STATUS
  | BRIGHT
  | FRAME_OUT
  | RESULT
  deriving DecidableEq, Repr

/-- The offset of a register in the window (10_state.md R22). -/
def Reg.offset : Reg → Nat
  | .CMD => 0x00
  | .VALUE => 0x04
  | .FRAME => 0x08
  | .STATUS => 0x0C
  | .BRIGHT => 0x10
  | .FRAME_OUT => 0x14
  | .RESULT => 0x18

/-- One line of a host program (30_encoding.md R80, R81). -/
inductive HostLine where
  /-- `WR <reg>, <imm32>` -/
  | wr (r : Reg) (v : Word)
  /-- `RD <reg>` -/
  | rd (r : Reg)
  /-- `<MNEMONIC> <operands>` -/
  | command (i : Instr)
  /-- `POLL` -/
  | poll
  /-- `SHOW <v>, <lz>, <an>` -/
  | showValue (v : Word) (lz an : Bit)
  /-- `SHOW_AT <v>, <len>, <pos>, <lz>, <an>` -/
  | showValueAt (v : Word) (length pos : Nat) (lz an : Bit)
  /-- `SEGS <f>` -/
  | segs (f : Word)
  /-- `CLRERR` -/
  | clrerr
  deriving DecidableEq, Repr

/-- A line without pseudo-instructions but POLL: the plain lines it expands to (30_encoding.md R81). -/
def HostLine.expandPseudo : HostLine → List HostLine
  | .showValue v lz an => [.wr .VALUE v, .command (.showNumber lz an)]
  | .showValueAt v length pos lz an => [.wr .VALUE v, .command (.showNumberAt length pos lz an)]
  | .segs f => [.wr .FRAME f, .command .setSegments]
  | .clrerr => [.wr .STATUS 0x00000070#32]
  | .wr r v => [.wr r v]
  | .rd r => [.rd r]
  | .command i => [.command i]
  | .poll => [.poll]

/-- The schedule of a plain line for a window at `base`; the assembler refuses an operand that does not fit its field
(30_encoding.md R80). -/
def HostLine.assemblePlain (base : Nat) : HostLine → Option (List Event)
  | .wr r v => some [.host (.write (base + r.offset) 4 v)]
  | .rd r => some [.host (.read (base + r.offset) 4)]
  | .command i => if i.wf then some [.host (.write base 4 (encode i))] else none
  | .poll => some [.poll]
  | .showValue _ _ _ => none
  | .showValueAt _ _ _ _ _ => none
  | .segs _ => none
  | .clrerr => none

/-- The schedule of a list of lines, none if the assembler refuses one of them. DESIGN CHOICE: the lines follow each other with no engine
step between them, where 10_state.md R38 admits any number; the engine's turns come inside POLL alone. Log 18 (unsafe for a claim about a
program that does not POLL). -/
def assemblePlainLines (base : Nat) : List HostLine → Option (List Event)
  | [] => some []
  | l :: rest =>
    match l.assemblePlain base, assemblePlainLines base rest with
    | some e, some es => some (e ++ es)
    | _, _ => none

/-- The schedule of a host program (30_encoding.md R80, R81), one of the interleavings of 10_state.md R38: log 18. -/
def assemble (base : Nat) (p : List HostLine) : Option (List Event) :=
  assemblePlainLines base (p.flatMap HostLine.expandPseudo)

/-! ### The end of a program (70_reset_and_hazards.md R203) -/

/-- The schedule of a host program run to its end: its lines, and after the last of them the host reads `STATUS` until a read returns
`BUSY = 0` (70_reset_and_hazards.md R203), log 17. -/
def assembleProgram (base : Nat) (p : List HostLine) : Option (List Event) :=
  (assemble base p).map (· ++ [.poll])

/-- The step out of `s` is the read of `STATUS` that ends a program (70_reset_and_hazards.md R203): it is the last thing scheduled, so
every line has executed, and it returns `BUSY = 0`. Log 17. -/
def State.atEndingRead (s : State) : Bool :=
  !s.status.busy &&
    (match s.inputs with
      | [.poll] => true
      | [.host (.read addr size)] => windowOffset s.cfg addr size == some 0x0C
      | _ => false)

/-- A host program ends in the step from `s` to `t`, and `t` is its end state: the registers, the pins and the bus trace at the ending
read (70_reset_and_hazards.md R203). -/
def State.ended (s t : State) : Prop := s.atEndingRead = true ∧ step s = .next t

/-- The end state of the program scheduled in `s`, reached in at most `fuel` steps. There is none if a step does not answer a next state,
or if a reset is asserted in the run, of which R203 says nothing. -/
def State.runToEnd : (fuel : Nat) → State → Option State
  | 0, _ => none
  | fuel + 1, s =>
    if s.inputs.head? = some .reset then none
    else
      match step s with
      | .next t => if s.atEndingRead then some t else State.runToEnd fuel t
      | .fault _ => none
      | .refused _ => none

end Sys2Proof.Machine
end

