-- ==== Sys2Proof/Machine/Wire.lean ====
section
/-! DEFINITION. What a bus monitor reads from the bus trace (00_scope.md R13, 10_state.md R37, 60_exceptions.md R194): start and
stop conditions, clock edges, transactions and their bytes, and the sequences' discipline on the data line. It is no part of
the engine. PRESUMED: the level-based readings of R13 are general knowledge (K-5), log 13 (unsafe). -/

namespace Sys2Proof.Machine

/-- What the bus monitor records of a micro-step (10_state.md R37), `v` being the value a Sample took; of a micro-step that writes a
register, nothing. -/
def MicroStep.busEvent (v : Bit) : MicroStep → Option BusEvent
  | .dirOut p => some (.dirOut p)
  | .dirIn p => some (.dirIn p)
  | .drive p l => some (.drive p l)
  | .wait => some .wait
  | .sample => some (.sample v)
  | .setBright _ => none
  | .setFrameOut _ => none
  | .setResult _ => none
  | .publishAck => none

/-- An event with the value it sampled, if it is a Sample, replaced by 0. -/
def BusEvent.unsampled : BusEvent → BusEvent
  | .sample _ => .sample false
  | .dirOut p => .dirOut p
  | .dirIn p => .dirIn p
  | .drive p v => .drive p v
  | .wait => .wait
  | .reset => .reset

/-- What happens on the wires (00_scope.md R13). -/
inductive WireEvent where
  /-- DIO falls while CLK is 1. -/
  | start
  /-- DIO rises while CLK is 1. -/
  | stop
  /-- CLK rises, with this level on DIO. -/
  | edge (bit : Bit)
  /-- CLK and DIO rise together, as a reset in the middle of an operation makes them: a clock edge of unspecified bit, and whether a
  stop condition too is not specified (70_reset_and_hazards.md R201). -/
  | bothRise
  deriving DecidableEq, Repr

/-- The wire event of one trace entry, from the levels before it (00_scope.md R13), whatever moved the lines, a reset included. -/
def wireEvent (clk dio : Bit) (e : TraceEntry) : Option WireEvent :=
  if clk && e.clk then
    (if dio && !e.dio then some .start else if !dio && e.dio then some .stop else none)
  else if !clk && e.clk then (if !dio && e.dio then some .bothRise else some (.edge e.dio))
  else none

/-- The wire events of a trace, from the levels before it. -/
def wireEvents : (clk dio : Bit) → List TraceEntry → List WireEvent
  | _, _, [] => []
  | clk, dio, e :: rest => (wireEvent clk dio e).toList ++ wireEvents e.clk e.dio rest

/-- The bits of the clock edges of a trace, but for one at which both lines rise together, whose bit is not specified. -/
def edgeBits (l : List WireEvent) : List Bit :=
  l.filterMap (fun e => match e with | .edge b => some b | _ => none)

/-- A byte from its bits, least significant first (40_bus_protocol.md R111). -/
def byteOfBits (b0 b1 b2 b3 b4 b5 b6 b7 : Bit) : Byte :=
  BitVec.ofNat 8
    (b0.toNat + 2 * b1.toNat + 4 * b2.toNat + 8 * b3.toNat + 16 * b4.toNat + 32 * b5.toNat + 64 * b6.toNat + 128 * b7.toNat)

/-- The bytes of the complete groups of nine edges; an incomplete last group is no byte (00_scope.md R13). -/
def bytesOfEdges : List Bit → List Byte
  | b0 :: b1 :: b2 :: b3 :: b4 :: b5 :: b6 :: b7 :: _ :: rest => byteOfBits b0 b1 b2 b3 b4 b5 b6 b7 :: bytesOfEdges rest
  | _ => []

/-- The transactions completed by a list of wire events, each as its bytes (00_scope.md R13). The first argument holds the edges
since the start condition of the transaction that is open, if one is. A start inside it begins the count anew, and a stop outside
one closes nothing: DESIGN CHOICE. Where both lines rise together, the bit of the edge and whether the transaction is closed are free
values. DESIGN CHOICE: if it is closed, that edge counts inside it, and so completes a byte when eight edges are open; the spec is silent.
Log 13 (safe: it observes, and no rule reads it). -/
def transactionsFrom : Option (List Bit) → List WireEvent → List (List Byte)
  | _, [] => []
  | _, .start :: rest => transactionsFrom (some []) rest
  | some bits, .stop :: rest => bytesOfEdges bits :: transactionsFrom none rest
  | none, .stop :: rest => transactionsFrom none rest
  | some bits, .edge b :: rest => transactionsFrom (some (bits ++ [b])) rest
  | none, .edge _ :: rest => transactionsFrom none rest
  | some bits, .bothRise :: rest =>
    let edges := bits ++ [Config.freeRise (2 * rest.length)]
    if Config.freeRise (2 * rest.length + 1) then bytesOfEdges edges :: transactionsFrom none rest
    else transactionsFrom (some edges) rest
  | none, .bothRise :: rest => transactionsFrom none rest

/-- The transactions of a list of wire events that begins outside any transaction. -/
def transactions (l : List WireEvent) : List (List Byte) := transactionsFrom none l

/-- The trace entries that `t` has beyond `s`'s. -/
def newTrace (s t : State) : List TraceEntry := t.trace.drop s.trace.length

/-- The wire events between `s` and a later `t`. -/
def wiresBetween (s t : State) : List WireEvent := wireEvents s.clkLine s.dioLine (newTrace s t)

/-- Whether DIO's latch or direction changes in a sequence only while CLK's latch is 0 (40_bus_protocol.md R112), from the
given latches. -/
def dioMovesWithClkLow : (clkLat dioLat : Bit) → List MicroStep → Bool
  | _, _, [] => true
  | c, d, .drive .dio v :: rest => (d == v || !c) && dioMovesWithClkLow c v rest
  | c, d, .dirOut .dio :: rest => !c && dioMovesWithClkLow c d rest
  | c, d, .dirIn .dio :: rest => !c && dioMovesWithClkLow c d rest
  | _, d, .drive .clk v :: rest => dioMovesWithClkLow v d rest
  | c, d, _ :: rest => dioMovesWithClkLow c d rest

end Sys2Proof.Machine
end

