-- ==== Sys2Proof/Safety.lean ====
section
/-! DEFINITION. What holds of the machine after every step: the invariants the spec states of its registers and pins
(10_state.md R21, R25, R30, R34, R36, R40; 40_bus_protocol.md R106; 60_exceptions.md R183), as one predicate, and what a clean run of
a host program is (60_exceptions.md R186). -/

namespace Sys2Proof.Machine

/-- One of the 16 valid brightness/power bytes (10_state.md R34). -/
abbrev brightValid (c : Config) (b : Byte) : Prop :=
  ∃ l : Fin 8, b = c.cmdDisplayOff ||| BitVec.ofNat 8 l.val ∨ b = c.cmdDisplayOn ||| BitVec.ofNat 8 l.val

/-- Every `SetBright` of a sequence writes a valid byte (10_state.md R34). -/
abbrev setsValidBright (c : Config) (p : List MicroStep) : Prop :=
  ∀ m ∈ p, ∀ v, m = .setBright v → brightValid c v

/-- Every `Drive` of a sequence is performed on an output pin, `DirIn` is used on DIO alone, and every `Sample` finds DIO
released (10_state.md R36, 40_bus_protocol.md R106), from the given directions of CLK and DIO. -/
def pinDiscipline : (clk dio : Dir) → List MicroStep → Bool
  | _, _, [] => true
  | _, d, .dirOut .clk :: rest => pinDiscipline .output d rest
  | c, _, .dirOut .dio :: rest => pinDiscipline c .output rest
  | _, _, .dirIn .clk :: _ => false
  | c, _, .dirIn .dio :: rest => pinDiscipline c .input rest
  | c, d, .drive .clk _ :: rest => (c == .output) && pinDiscipline c d rest
  | c, d, .drive .dio _ :: rest => (d == .output) && pinDiscipline c d rest
  | c, d, .sample :: rest => (d == .input) && pinDiscipline c d rest
  | c, d, _ :: rest => pinDiscipline c d rest

/-- The pins after a sequence, from the given CLK and DIO. -/
def pinsAfter : (clk dio : Pin) → List MicroStep → Pin × Pin
  | c, d, [] => (c, d)
  | c, d, .dirOut .clk :: rest => pinsAfter { c with dir := .output } d rest
  | c, d, .dirOut .dio :: rest => pinsAfter c { d with dir := .output } rest
  | c, d, .dirIn .clk :: rest => pinsAfter { c with dir := .input } d rest
  | c, d, .dirIn .dio :: rest => pinsAfter c { d with dir := .input } rest
  | c, d, .drive .clk v :: rest => pinsAfter { c with lat := v } d rest
  | c, d, .drive .dio v :: rest => pinsAfter c { d with lat := v } rest
  | c, d, _ :: rest => pinsAfter c d rest

/-- The pins as 10_state.md R40 has them at an operation boundary: both outputs, at (1, 1) or at (0, 0). -/
abbrev atBoundary (clk dio : Pin) : Prop := ∃ v : Bit, clk = .driven v ∧ dio = .driven v

/-- Whether a micro-step is followed by one Wait (40_bus_protocol.md R110): every Drive and every DirIn. -/
def MicroStep.needsWait : MicroStep → Bool
  | .drive _ _ => true
  | .dirIn _ => true
  | _ => false

/-- Whether a micro-step may follow a DirOut (40_bus_protocol.md R110): a Drive or a further DirOut. -/
def MicroStep.followsDirOut : MicroStep → Bool
  | .drive _ _ => true
  | .dirOut _ => true
  | _ => false

/-- The Waits of a sequence stand exactly where 40_bus_protocol.md R110 puts them: each Drive and DirIn is followed by one, nothing
else is, and a DirOut is followed at once by a Drive or a further DirOut. -/
def settles : List MicroStep → Bool
  | [] => true
  | m :: rest =>
    (m.needsWait == (rest.head? == some .wait))
      && (match m with
        | .dirOut _ => (rest.head?.map MicroStep.followsDirOut).getD false
        | _ => true)
      && settles rest

/-- A micro-step that writes a register and touches no pin. -/
def MicroStep.writesRegister : MicroStep → Bool
  | .setBright _ => true
  | .setFrameOut _ => true
  | .setResult _ => true
  | _ => false

/-- A sequence that writes registers alone: no pin micro-step, and no acknowledgment published. -/
abbrev movesNoPin (p : List MicroStep) : Prop := ∀ m ∈ p, m.writesRegister = true

/-- `BUSY` says whether `prog` is non-empty (10_state.md R21). -/
abbrev State.busyAgrees (s : State) : Prop := s.status.busy = true ↔ s.prog ≠ []

/-- The machine's invariant. -/
structure State.Inv (s : State) : Prop where
  /-- The parameters meet their constraints (00_scope.md R7). -/
  cfgWf : s.cfg.wf
  /-- `BUSY = 1` exactly when `prog` is non-empty (10_state.md R21). -/
  busyIff : s.busyAgrees
  /-- `BRIGHT` is one of 16 valid values (10_state.md R34), and stays so. -/
  bright : brightValid s.cfg s.bright
  brightNext : setsValidBright s.cfg s.prog
  /-- Pins are driven as outputs and sampled released (10_state.md R36, 40_bus_protocol.md R106). -/
  discipline : pinDiscipline s.clk.dir s.dio.dir s.prog = true
  /-- When the running operation ends, the pins are at a boundary (10_state.md R40). -/
  boundary : s.status.init = true → atBoundary (pinsAfter s.clk s.dio s.prog).1 (pinsAfter s.clk s.dio s.prog).2
  /-- Before INITIALIZE both pins are released inputs and nothing moves them (60_exceptions.md R183). -/
  released : s.status.init = false → s.clk = .released ∧ s.dio = .released ∧ movesNoPin s.prog
  /-- `ACK` is 1 only once a WRITE_BYTE has completed (10_state.md R25). -/
  ackValid : s.status.ack = true → s.status.ackValid = true

/-- A bus-using operation may be accepted: the engine is idle and INITIALIZE has been accepted (60_exceptions.md R181). -/
abbrev State.ready (s : State) : Prop := s.status.busy = false ∧ s.status.init = true

/-- An operation of this opcode may be accepted (60_exceptions.md R181, R183). -/
abbrev State.accepts (s : State) (i : Instr) : Prop :=
  s.status.busy = false ∧ (s.status.init = true ∨ i.opcode = 0x5#4 ∨ i.opcode = 0xA#4)

/-- A host write of `w` to `CMD` (20_memory.md R50, offset 0x00). -/
def State.writeCMD (s : State) (w : Word) : Host.Outcome State Fault Refusal := s.access (.write s.cfg.baseAddr 4 w)

/-- The operation lengths of 70_reset_and_hazards.md R211: micro-steps and `Wait`s of each operation. -/
def opLength : Instr → Nat × Nat
  | .start => (9, 4)
  | .stop => (9, 4)
  | .writeByte _ => (61, 29)
  | .sendCommand _ => (78, 37)
  | .initialise => (560, 266)
  | .setBrightness _ _ => (79, 37)
  | .clear => (475, 227)
  | .setAddress _ => (78, 37)
  | .setSegments => (475, 227)
  | .encodeDigit _ => (1, 0)
  | .showNumberAt _ _ _ _ => (475, 227)
  | .showNumber _ _ => (475, 227)
  | .showTime _ _ _ => (475, 227)

/-- No error flag is set: the premise of a claim about a host program (60_exceptions.md R186). -/
def State.clean (s : State) : Bool := !s.status.errIllegal && !s.status.errBusy && !s.status.errNoinit

/-- The schedule holds no access outside the spec (20_memory.md R51), so no step is refused. -/
def State.accessesDefined (s : State) : Bool :=
  s.inputs.all fun e => match e with
    | .host (.read addr size) => (windowOffset s.cfg addr size).isSome
    | .host (.write addr size _) => (windowOffset s.cfg addr size).isSome
    | _ => true

end Sys2Proof.Machine
end

