-- ==== Sys2Proof/Certificates/Slice0/Obligations.lean ====
section
/-! DEFINITION. The statements about the engine that the provers are given. Each docstring names the rules of `spec/` it
rests on. Parameters (00_scope.md R7) are part of the state, so every statement holds for every value of them. -/

open Sys2Proof Sys2Proof.Machine

/-! ### Encoding (30_encoding.md) -/

/-- R71 to R74: the decoder reads back every well-formed operation, with every operand, from its command word. -/
def Obligations.DecodeOfEncode : Prop :=
  ∀ i : Instr, i.wf = true → decode (encode i) = .ok i

/-- R71, R72, R76: a word that decodes to an operation is that operation's word but for the bits its format ignores, and the
operation is well formed. -/
def Obligations.EncodeOfDecodeKeepsUsedBits : Prop :=
  ∀ (w : Word) (i : Instr), decode w = .ok i → i.wf = true ∧ encode i = w &&& usedMask (opField w)

/-- R82: the worked encodings, in both directions. -/
def Obligations.WorkedEncodings : Prop :=
  ∀ p ∈ ([(.start, 0x00000001#32), (.stop, 0x00000002#32), (.writeByte 0xC0#8, 0x0000C003#32),
      (.sendCommand 0x40#8, 0x00004004#32), (.initialise, 0x00000005#32), (.setBrightness 3 false, 0x00000306#32),
      (.setBrightness 7 true, 0x01000706#32), (.clear, 0x00000007#32), (.setAddress 2#8, 0x00000208#32),
      (.setSegments, 0x00000009#32), (.encodeDigit 7, 0x0000070A#32), (.showNumberAt 3 1 false true, 0x0200130B#32),
      (.showNumberAt 2 0 false true, 0x0200020B#32), (.showNumber false true, 0x0200000C#32),
      (.showNumber true true, 0x0300000C#32), (.showTime 9 5 true, 0x0105090D#32),
      (.showTime 12 34 false, 0x00220C0D#32)] : List (Instr × Word)),
    encode p.1 = p.2 ∧ decode p.2 = .ok p.1

/-- R76: two words that differ only in bits their opcode ignores perform the same operation: written to `CMD` in any state they
leave the same state, but for the words shown on the host port and held in the latch.
`wdata`, the host port's write-data lines, is the model's own field (log 6). -/
def Obligations.IgnoredBitsPerformSameOperation : Prop :=
  ∀ (s : State) (w w' : Word), opField w = opField w' →
    w &&& usedMask (opField w) = w' &&& usedMask (opField w') →
    decode w = decode w' ∧
    ∃ t t', s.writeCMD w = .next t ∧ s.writeCMD w' = .next t' ∧ t' = { t with wdata := w', lat := t'.lat }

/-! ### Acceptance and rejection (60_exceptions.md) -/

/-- R181, R27, R185: the acceptance step, for every state and every word, in the order of its pseudo-code.
`wdata`, the host port's write-data lines, is the model's own field (log 6). -/
def Obligations.AcceptanceStep : Prop :=
  ∀ (s : State) (w : Word),
    let op : BitVec 4 := w.extractLsb' 0 4
    let l : Latch :=
      { op := op, a := w.extractLsb' 8 8, b := w.extractLsb' 16 8, f0 := w.getLsbD 24, f1 := w.getLsbD 25,
        value := s.value.toInt, frame := s.frame }
    s.writeCMD w = .next
      (if s.status.busy = true then
        { s with wdata := w, status := { s.status with errBusy := true } }
      else if op = 0x0#4 ∨ op = 0xE#4 ∨ op = 0xF#4 then
        { s with wdata := w, status := { s.status with errIllegal := true } }
      else if s.status.init = false ∧ op ≠ 0x5#4 ∧ op ≠ 0xA#4 then
        { s with wdata := w, status := { s.status with errNoinit := true } }
      else
        { s with
          wdata := w
          lat := l
          prog := expand s.cfg l s.bright
          status := { s.status with busy := true, init := s.status.init || decide (op = 0x5#4) } })

/-- R182, R183, R188: an operation whose command is turned away sets its one flag and changes nothing else, the running
operation included. -/
def Obligations.RejectedOperationSetsItsFlagOnly : Prop :=
  (∀ (s : State) (i : Instr), s.status.busy = true →
    exec i s = .next { s with status := { s.status with errBusy := true } }) ∧
  (∀ (s : State) (i : Instr), s.status.busy = false → s.status.init = false → i.opcode ≠ 0x5#4 → i.opcode ≠ 0xA#4 →
    exec i s = .next { s with status := { s.status with errNoinit := true } })

/-- R181, R27, R33: every operation, of all thirteen, is accepted whenever the engine is idle and INITIALIZE has been accepted,
and INITIALIZE and ENCODE_DIGIT when it has not. Acceptance writes the latch, `prog`, BUSY and INIT and nothing else, and
`prog` is the non-empty `Expand` of the latch and BRIGHT.
The fields its format ignores are copied into the latch from the write-data lines, the model's own field (log 6). -/
def Obligations.EveryOperationIsAccepted : Prop :=
  ∀ (s : State) (i : Instr), i.wf = true → s.accepts i →
    exec i s = .next { s with
      lat := s.latchOf i
      prog := expand s.cfg (s.latchOf i) s.bright
      status := { s.status with busy := true, init := s.status.init || decide (i = .initialise) } } ∧
    expand s.cfg (s.latchOf i) s.bright ≠ []

/-- R83, R180 and 93_implementation_defined.md: the machine has no fault and no stuck state, and a host access that the spec
defines is never refused: while the schedule holds defined accesses alone, every step answers a next state, and the rest of the
schedule is so too.
The schedule is the model's form of the interleaving (log 1), and the refusal of an undefined access its choice (log 8). -/
def Obligations.DefinedSchedulesNeverStop : Prop :=
  ∀ s : State, s.accessesDefined = true → ∃ t, step s = .next t ∧ t.accessesDefined = true

/-! ### The engine (10_state.md) -/

/-- R36, R37: the effect of each micro-step, with its removal from `prog` and the clearing of BUSY when `prog` is then empty. A pin
micro-step appends one entry to the bus trace, its event with the two line levels after it (R31); the others append none. Nothing else
changes.
That the peer's draw is taken at DirIn, and where it comes from, is the model's choice (log 2); so is the form of the trace (log 7); that a
released CLK reads 1 is log 14. -/
def Obligations.MicroStepEffects : Prop :=
  ∀ (s : State) (m : MicroStep) (rest : List MicroStep), s.prog = m :: rest →
    let t := s.engineStep
    let u : State := { s with prog := rest, status := { s.status with busy := s.status.busy && !rest.isEmpty } }
    let traced (ev : BusEvent) (clk dio : Pin) (peer : Bit) : List TraceEntry :=
      s.trace ++ [⟨ev, if clk.dir = .output then clk.lat else true, if dio.dir = .output then dio.lat else peer⟩]
    let sampled : Bit := if s.dio.dir = .output then s.dio.lat else s.peerDio
    (m = .dirOut .clk → t = { u with
      clk := ⟨.output, s.clk.lat⟩, trace := traced (.dirOut .clk) ⟨.output, s.clk.lat⟩ s.dio s.peerDio }) ∧
    (m = .dirOut .dio → t = { u with
      dio := ⟨.output, s.dio.lat⟩, trace := traced (.dirOut .dio) s.clk ⟨.output, s.dio.lat⟩ s.peerDio }) ∧
    (m = .dirIn .clk → t = { u with
      clk := ⟨.input, s.clk.lat⟩, trace := traced (.dirIn .clk) ⟨.input, s.clk.lat⟩ s.dio s.peerDio }) ∧
    (m = .dirIn .dio → t = { u with
      dio := ⟨.input, s.dio.lat⟩
      peerDio := s.nextDraw
      peerDraws := s.peerDraws.tail
      drawCount := if s.peerDraws = [] then s.drawCount + 1 else s.drawCount
      trace := traced (.dirIn .dio) s.clk ⟨.input, s.dio.lat⟩ s.nextDraw }) ∧
    (∀ v, m = .drive .clk v → t = { u with
      clk := ⟨s.clk.dir, v⟩, trace := traced (.drive .clk v) ⟨s.clk.dir, v⟩ s.dio s.peerDio }) ∧
    (∀ v, m = .drive .dio v → t = { u with
      dio := ⟨s.dio.dir, v⟩, trace := traced (.drive .dio v) s.clk ⟨s.dio.dir, v⟩ s.peerDio }) ∧
    (m = .wait → t = { u with trace := traced .wait s.clk s.dio s.peerDio }) ∧
    (m = .sample → t = { u with
      ackLatch := sampled, trace := traced (.sample sampled) s.clk s.dio s.peerDio }) ∧
    (∀ v, m = .setBright v → t = { u with bright := v }) ∧
    (∀ f, m = .setFrameOut f → t = { u with frameOut := f }) ∧
    (∀ v, m = .setResult v → t = { u with result := v }) ∧
    (m = .publishAck → t = { u with status := { u.status with ack := !s.ackLatch, ackValid := true } })

/-- R37, R36: the bus trace of an operation is its sequence: each of the thirteen operations is accepted with the trace as it was, and after
every number of engine steps the trace has in addition one entry for each pin micro-step performed, in order, the values sampled aside.
The form of the trace is the model's (log 7). -/
def Obligations.BusTraceIsTheSequence : Prop :=
  ∀ (s : State) (i : Instr), s.accepts i → ∃ t, exec i s = .next t ∧ t.trace = s.trace ∧
    ∀ n : Nat, ∃ tr, (State.engineRun n t).trace = s.trace ++ tr ∧
      tr.map (fun e => e.ev.unsampled) = (t.prog.take n).filterMap (MicroStep.busEvent false)

/-- R38, R59, R21: the engine performs `prog` in order, one micro-step a step; in a state where BUSY says that `prog` is
non-empty, BUSY stays 1 for exactly `len(prog)` engine steps. -/
def Obligations.OperationEndsAfterItsLength : Prop :=
  ∀ s : State, s.busyAgrees → ∀ n : Nat,
    (State.engineRun n s).prog = s.prog.drop n ∧
    ((State.engineRun n s).status.busy = true ↔ n < s.prog.length)

/-- R211, R212: the number of micro-steps and of `Wait`s of each of the thirteen operations. -/
def Obligations.OperationLengths : Prop :=
  ∀ (s : State) (i : Instr), s.accepts i →
    ∃ t, exec i s = .next t ∧ t.prog.length = (opLength i).1 ∧ waitCount t.prog = (opLength i).2

/-- R110: in what each of the thirteen operations performs, one Wait follows every Drive and every DirIn and nothing else, so that none follows
a DirOut or a Sample, and a Drive or a further DirOut follows every DirOut. The length of a Wait, BIT_DELAY, changes nothing in acceptance
or in the run. -/
def Obligations.EveryTransitionSettles : Prop :=
  ∀ (s : State) (i : Instr) (delay : Nat), s.accepts i → ∃ t, exec i s = .next t ∧ settles t.prog = true ∧
    exec i { s with cfg := { s.cfg with bitDelay := delay } } = .next { t with cfg := { t.cfg with bitDelay := delay } } ∧
    ∀ n : Nat, State.engineRun n { t with cfg := { t.cfg with bitDelay := delay } } =
      { State.engineRun n t with cfg := { t.cfg with bitDelay := delay } }

/-- R27, R209, R62: a host write to VALUE, FRAME or STATUS while an operation runs does not change what the engine does, nor the
engine's steps what the write does: the two commute, for any number of engine steps. -/
def Obligations.OperandWritesWhileBusyAreSafe : Prop :=
  ∀ (s : State) (off : Nat) (v : Word) (n : Nat), off = 0x04 ∨ off = 0x08 ∨ off = 0x0C →
    State.engineRun n (s.writeReg off v) = (State.engineRun n s).writeReg off v

/-- R24, R28, R29, R35: each engine register has one writer. In a step, BRIGHT, FRAME_OUT and RESULT change only by their own
micro-step at the head of `prog`, ACK and ACK_VALID only by PublishAck, or by a reset; the operand registers never by an
engine step.
The schedule is the model's form of the interleaving (log 1). -/
def Obligations.RegistersHaveOneWriter : Prop :=
  ∀ s t : State, step s = .next t → s.inputs.head? ≠ some .reset →
    (t.bright = s.bright ∨ s.prog.head? = some (.setBright t.bright)) ∧
    (t.frameOut = s.frameOut ∨ s.prog.head? = some (.setFrameOut t.frameOut)) ∧
    (t.result = s.result ∨ s.prog.head? = some (.setResult t.result)) ∧
    ((t.status.ack = s.status.ack ∧ t.status.ackValid = s.status.ackValid) ∨ s.prog.head? = some .publishAck) ∧
    (t.prog ≠ s.prog → t.value = s.value ∧ t.frame = s.frame)

/-- R25, R35, R200: INIT is set only by accepting INITIALIZE and cleared only by a reset; an error flag that is set is cleared only
by a host write to STATUS with that bit 1 or by a reset.
The schedule is the model's form of the interleaving (log 1). -/
def Obligations.StickyFlags : Prop :=
  ∀ s t : State, step s = .next t → s.inputs.head? ≠ some .reset →
    (s.status.init = true → t.status.init = true) ∧
    (s.status.init = false → t.status.init = true → t.lat.op = 0x5#4 ∧ t.prog = initialiseProg s.cfg) ∧
    (s.status.errIllegal = true → t.status.errIllegal = false →
      ∃ v, s.inputs.head? = some (.host (.write (s.cfg.baseAddr + 0x0C) 4 v)) ∧ v.getLsbD 4 = true) ∧
    (s.status.errBusy = true → t.status.errBusy = false →
      ∃ v, s.inputs.head? = some (.host (.write (s.cfg.baseAddr + 0x0C) 4 v)) ∧ v.getLsbD 5 = true) ∧
    (s.status.errNoinit = true → t.status.errNoinit = false →
      ∃ v, s.inputs.head? = some (.host (.write (s.cfg.baseAddr + 0x0C) 4 v)) ∧ v.getLsbD 6 = true)

/-- R59, R182: operations never overlap. While one runs, a step leaves `prog`, drops its head or, in a reset, discards it, and
keeps the latch. -/
def Obligations.OperationsNeverOverlap : Prop :=
  ∀ s t : State, step s = .next t → s.status.busy = true →
    ((t.prog = s.prog ∨ t.prog = s.prog.tail) ∧ t.lat = s.lat) ∨
    (s.inputs.head? = some .reset ∧ t.prog = [])

/-- R7, R32: no step changes a parameter of the instance, the glyph table among them. -/
def Obligations.ParametersNeverChange : Prop :=
  ∀ s t : State, step s = .next t → t.cfg = s.cfg

/-! ### Invariants -/

/-- R39, R34, R40, R7: the invariant holds of the state a reset leaves, for all parameters that meet their constraints, and so of
`State.reset`, whose parameters are the defaults of R7 (log 4, PRESUMED) and the model's values for the OPEN ones (log 5, DESIGN CHOICE). -/
def Obligations.InvAtReset : Prop :=
  (∀ c : Config, c.wf → (State.resetOf c).Inv) ∧ State.reset.Inv

/-- R21, R25, R30, R34, R36, R40, R106, R183: every step of the machine keeps the invariant: BUSY says whether `prog` is
non-empty, BRIGHT is one of 16 values, pins are driven as outputs and sampled released, they end every operation at a boundary,
before INITIALIZE they are released, and ACK is 1 only once it is valid. -/
def Obligations.EveryStepKeepsInv : Prop :=
  ∀ s t : State, s.Inv → step s = .next t → t.Inv

/-! ### What each operation does, run to its end (40_bus_protocol.md to 42_formatting.md) -/

/-- R100 to R103: START and STOP, from any pins: the nine micro-steps on the bus, DIO left an output, both latches at 0 after START and
at 1 after STOP, and everything but the latch, the pins and the trace as before.
The recorded trace is the model's own field (log 7). -/
def Obligations.StartAndStopEffects : Prop :=
  (∀ s : State, s.busyAgrees → s.ready → ∃ t tr, exec .start s = .next t ∧
    t.complete = { s with
      lat := s.latchOf .start, clk := ⟨s.clk.dir, false⟩, dio := .driven false, trace := s.trace ++ tr } ∧
    tr.map TraceEntry.ev = [.dirOut .dio, .drive .dio true, .wait, .drive .clk true, .wait, .drive .dio false, .wait,
      .drive .clk false, .wait]) ∧
  (∀ s : State, s.busyAgrees → s.ready → ∃ t tr, exec .stop s = .next t ∧
    t.complete = { s with
      lat := s.latchOf .stop, clk := ⟨s.clk.dir, true⟩, dio := .driven true, trace := s.trace ++ tr } ∧
    tr.map TraceEntry.ev = [.dirOut .dio, .drive .clk false, .wait, .drive .dio false, .wait, .drive .clk true, .wait,
      .drive .dio true, .wait])

/-- R104, R105, R106: WRITE_BYTE publishes the peer's draw: ACK is 1 exactly when the level in the acknowledgment slot is low. Both
latches end at 0 and DIO an output, whatever the draw; everything else is as before. The bus carries the sequence of R104, with the draw
as the value sampled.
The peer's levels are the model's own fields (log 2), and so is the recorded trace (log 7). -/
def Obligations.WriteByteEffect : Prop :=
  ∀ (s : State) (b : Byte), s.busyAgrees → s.ready → ∃ t tr, exec (.writeByte b) s = .next t ∧
    t.complete = { s with
      lat := s.latchOf (.writeByte b)
      clk := ⟨s.clk.dir, false⟩
      dio := .driven false
      ackLatch := s.nextDraw
      status := { s.status with ack := !s.nextDraw, ackValid := true }
      peerDio := s.nextDraw
      peerDraws := s.peerDraws.tail
      drawCount := if s.peerDraws = [] then s.drawCount + 1 else s.drawCount
      trace := s.trace ++ tr } ∧
    tr.map TraceEntry.ev =
      ([0, 1, 2, 3, 4, 5, 6, 7].flatMap fun k =>
        [.drive .clk false, .wait, .drive .dio (b.getLsbD k), .wait, .drive .clk true, .wait]) ++
      [.drive .clk false, .wait, .dirIn .dio, .wait, .drive .clk true, .wait, .sample s.nextDraw, .drive .clk false, .wait,
        .dirOut .dio, .drive .dio false, .wait]

/-- R205, R105: a host that reads ACK while a WRITE_BYTE runs sees the previous result, for each of the 60 micro-steps before the
last. -/
def Obligations.AckIsOldWhileWriteByteRuns : Prop :=
  ∀ (s : State) (b : Byte) (n : Nat), s.ready → n < 61 → ∃ t, exec (.writeByte b) s = .next t ∧
    (State.engineRun n t).status = { s.status with busy := true }

/-- R113: no operation other than WRITE_BYTE reports the acknowledgment: at every point of its run ACK and ACK_VALID are as before, and
it goes on with its remaining micro-steps whatever was sampled. -/
def Obligations.OnlyWriteByteReportsAck : Prop :=
  ∀ (s : State) (i : Instr), s.accepts i → (∀ b, i ≠ .writeByte b) → ∃ t, exec i s = .next t ∧
    ∀ n : Nat, (State.engineRun n t).status.ack = s.status.ack ∧
      (State.engineRun n t).status.ackValid = s.status.ackValid ∧
      (State.engineRun n t).prog = t.prog.drop n

/-- R106, R113, R180: what the peer answers reaches nothing but the acknowledgment: two runs of one operation from states that differ
in the peer's levels alone agree, after every number of engine steps, on every register, both pins and the rest of `prog`, but for
ACK and the sampled level; their bus traces hold the same events, but for the values sampled.
The peer's levels are the model's own fields (log 2), and so is the recorded trace (log 7). -/
def Obligations.PeerReachesAckOnly : Prop :=
  ∀ (s : State) (i : Instr) (level : Bit) (draws : List Bit) (count : Nat), s.accepts i →
    ∃ t u, exec i s = .next t ∧
      exec i { s with peerDio := level, peerDraws := draws, drawCount := count } = .next u ∧
      ∀ n : Nat,
        let a := State.engineRun n t
        let b := State.engineRun n u
        b = { a with
          ackLatch := b.ackLatch
          status := { a.status with ack := b.status.ack }
          peerDio := b.peerDio
          peerDraws := b.peerDraws
          drawCount := b.drawCount
          trace := b.trace } ∧
        (b.trace.map fun e => match e.ev with | .sample _ => BusEvent.sample false | ev => ev) =
          (a.trace.map fun e => match e.ev with | .sample _ => BusEvent.sample false | ev => ev)

/-- R108, R109, R134: SEND_COMMAND sends one transaction of its byte, and SET_ADDRESS one of the base-address command with the two
low bits of its operand. Both leave the lines at (1, 1), and every register as before.
What counts as a condition, an edge and a transaction is R13, read as log 13 says; the trace is the model's own field (log 7). -/
def Obligations.SingleByteCommandEffects : Prop :=
  ∀ (s : State) (i : Instr) (c : Byte),
    i = .sendCommand c ∨ (∃ a, i = .setAddress a ∧ c = s.cfg.cmdAddr ||| (a &&& 0x03#8)) →
    s.busyAgrees → s.ready → atBoundary s.clk s.dio →
    ∃ t u tr, exec i s = .next t ∧ t.complete = u ∧
      u = { s with
        lat := s.latchOf i, clk := .driven true, dio := .driven true, trace := s.trace ++ tr
        ackLatch := u.ackLatch, peerDio := u.peerDio, peerDraws := u.peerDraws, drawCount := u.drawCount } ∧
      transactions (wiresBetween s u) = [[c]]

/-- R131, R132: SET_BRIGHTNESS caches the byte made of the clamped level and the on flag, and sends it as one transaction; every
other register is as before.
What counts as a condition, an edge and a transaction is R13, read as log 13 says; the trace is the model's own field (log 7). -/
def Obligations.SetBrightnessEffect : Prop :=
  ∀ (s : State) (level : Nat) (on : Bit), s.busyAgrees → s.ready → atBoundary s.clk s.dio →
    let b : Byte := (if on = true then s.cfg.cmdDisplayOn else s.cfg.cmdDisplayOff) ||| BitVec.ofNat 8 (min level 7)
    ∃ t u tr, exec (.setBrightness level on) s = .next t ∧ t.complete = u ∧
      u = { s with
        bright := b
        lat := s.latchOf (.setBrightness level on), clk := .driven true, dio := .driven true, trace := s.trace ++ tr
        ackLatch := u.ackLatch, peerDio := u.peerDio, peerDraws := u.peerDraws, drawCount := u.drawCount } ∧
      transactions (wiresBetween s u) = [[b]]

/-- R130: INITIALIZE, from an operation boundary or from the released pins of reset: INIT, BRIGHT at level 7 and on, FRAME_OUT
blank, both pins outputs at 1, everything else as before, and four transactions on the bus.
What counts as a condition, an edge and a transaction is R13, read as log 13 says; the trace is the model's own field (log 7).
The start from reset's released pins rests on the released DIO reading 1 (`peerDio`, log 3) and the released CLK reading 1 (log 14). -/
def Obligations.InitialiseEffect : Prop :=
  ∀ s : State, s.busyAgrees → s.status.busy = false →
    atBoundary s.clk s.dio ∨ (s.clk = .released ∧ s.dio = .released ∧ s.peerDio = true) →
    let b : Byte := s.cfg.cmdDisplayOn ||| 7#8
    ∃ t u tr, exec .initialise s = .next t ∧ t.complete = u ∧
      u = { s with
        status := { s.status with init := true }
        bright := b
        frameOut := 0#32
        lat := s.latchOf .initialise, clk := .driven true, dio := .driven true, trace := s.trace ++ tr
        ackLatch := u.ackLatch, peerDio := u.peerDio, peerDraws := u.peerDraws, drawCount := u.drawCount } ∧
      transactions (wiresBetween s u) =
        [[b], [s.cfg.cmdDataAuto], [s.cfg.cmdAddr, 0x00#8, 0x00#8, 0x00#8, 0x00#8], [b]]

/-- R133, R135 to R138, R159, R160, R162: every display write sends its frame. From an operation boundary, CLEAR, SET_SEGMENTS,
SHOW_NUMBER_AT, SHOW_NUMBER and SHOW_TIME put their frame in FRAME_OUT, leave the lines at (1, 1) and every other register as
before, and the bus carries exactly three transactions: the auto-increment command, the base address with the four bytes of the frame,
position 0 first, and the cached brightness byte, which is so always the last. No other start or stop condition occurs.
What counts as a condition, an edge and a transaction is R13, read as log 13 says; the trace is the model's own field (log 7). -/
def Obligations.EveryDisplayWriteSendsItsFrame : Prop :=
  ∀ (s : State) (i : Instr) (f : Word),
    (i = .clear ∧ f = 0#32) ∨ (i = .setSegments ∧ f = s.frame) ∨
    (∃ len pos lz an, i = .showNumberAt len pos lz an ∧ f = formatNumber s.cfg s.value.toInt len pos lz an) ∨
    (∃ lz an, i = .showNumber lz an ∧ f = formatNumber s.cfg s.value.toInt 4 0 lz an) ∨
    (∃ h m colon, i = .showTime h m colon ∧ f = formatTime s.cfg h m colon) →
    s.busyAgrees → s.ready → atBoundary s.clk s.dio →
    ∃ t u tr, exec i s = .next t ∧ t.complete = u ∧
      u = { s with
        frameOut := f
        lat := s.latchOf i, clk := .driven true, dio := .driven true, trace := s.trace ++ tr
        ackLatch := u.ackLatch, peerDio := u.peerDio, peerDraws := u.peerDraws, drawCount := u.drawCount } ∧
      transactions (wiresBetween s u) =
        [[s.cfg.cmdDataAuto],
          [s.cfg.cmdAddr, f.extractLsb' 0 8, f.extractLsb' 8 8, f.extractLsb' 16 8, f.extractLsb' 24 8],
          [s.bright]] ∧
      (wiresBetween s u).countP (fun e => decide (e = .start)) = 3 ∧
      (wiresBetween s u).countP (fun e => decide (e = .stop)) = 3

/-- R150, R183: ENCODE_DIGIT runs whenever the engine is idle, before INITIALIZE too; its one micro-step puts the glyph, or blank for
d above 9, in RESULT, and no pin, trace entry or other register changes. -/
def Obligations.EncodeDigitEffect : Prop :=
  ∀ (s : State) (d : Nat), s.busyAgrees → s.status.busy = false → ∃ t, exec (.encodeDigit d) s = .next t ∧ t.prog.length = 1 ∧
    t.complete = { s with
      lat := s.latchOf (.encodeDigit d)
      result := if h : d < 10 then s.cfg.glyph[d] else 0x00#8 }

/-- R160, R81: SHOW_NUMBER lz, an and SHOW_NUMBER_AT 4, 0, lz, an perform the same operation: accepted in one state they leave the same
state but for the latch. -/
def Obligations.ShowNumberIsShowNumberAtFourZero : Prop :=
  ∀ (s : State) (lz an : Bit), s.ready →
    ∃ t u, exec (.showNumber lz an) s = .next t ∧ exec (.showNumberAt 4 0 lz an) s = .next u ∧
      t = { u with lat := s.latchOf (.showNumber lz an) }

/-! ### Formatting (42_formatting.md) -/

/-- R151: the glyph of a digit, blank outside 0 to 9, and bit 7 always clear. -/
def Obligations.EncodeDigitGlyphs : Prop :=
  ∀ (c : Config) (d : Nat), c.glyphsClear →
    (∀ h : d < 10, glyphOf c d = c.glyph[d]) ∧ (9 < d → glyphOf c d = 0x00#8) ∧ (glyphOf c d).getLsbD 7 = false

/-- R152: the clamped length L and position P, which lie in the display; L is 0 only for length 0, and a request that needs no clamping is
taken as it is. -/
def Obligations.FieldClamping : Prop :=
  ∀ length pos : Nat,
    let f := clampField length pos
    f.2 = min pos 3 ∧
    f.1 = (if min pos 3 + min length 4 > 4 then 4 - min pos 3 else min length 4) ∧
    f.2 ≤ 3 ∧ f.1 ≤ 4 ∧ f.2 + f.1 ≤ 4 ∧ (f.1 = 0 ↔ length = 0) ∧
    (length ≤ 4 → pos ≤ 3 → pos + length ≤ 4 → f = (length, pos))

/-- R153: sign and magnitude of a 32-bit value, exact at -2^31; a negative value without permission is zero. -/
def Obligations.SignAndMagnitude : Prop :=
  ∀ (w : Word) (an : Bit),
    (0 ≤ s32 w → signMagnitude (s32 w) an = (false, (s32 w).toNat)) ∧
    (s32 w < 0 → signMagnitude (s32 w) false = (false, 0)) ∧
    (s32 w < 0 → signMagnitude (s32 w) true = (true, 2 ^ 32 - w.toNat)) ∧
    (signMagnitude (s32 0x80000000#32) true = (true, 2 ^ 31))

/-- R155: overflow happens exactly when the magnitude is at least 10^L, and then every position of the field is the dash glyph,
whatever the sign and the leading-zero flag. -/
def Obligations.OverflowShowsDashes : Prop :=
  ∀ (c : Config) (neg : Bit) (mag L P : Nat) (lz : Bit), P + L ≤ 4 →
    ((fillDigits c lz P L true mag (Vector.replicate 4 0x00#8)).2 ≠ 0 ↔ 10 ^ L ≤ mag) ∧
    (10 ^ L ≤ mag → ∀ k : Fin 4, P ≤ k.val → k.val < P + L → (formatField c neg mag L P lz)[k] = 0x40#8)

/-- R152 to R158: what each of the four positions of a formatted number shows, in closed form, for every value, length, position and
flag: blank outside the field; dashes everywhere on overflow; the sign at the leftmost position; otherwise the decimal digit of that
place, blank where no digit is left and leading zeros are off, the ones place always shown. -/
def Obligations.FormatNumberClosedForm : Prop :=
  ∀ (c : Config) (v : Int) (length pos : Nat) (lz an : Bit) (k : Fin 4),
    let P := min pos 3
    let L := min (min length 4) (4 - P)
    let neg : Bool := decide (v < 0) && an
    let mag : Nat := if 0 ≤ v ∨ an = true then v.natAbs else 0
    let place := P + L - 1 - k.val
    (formatNumber c v length pos lz an).extractLsb' (8 * k.val) 8 =
      if k.val < P ∨ P + L ≤ k.val then 0x00#8
      else if 10 ^ L ≤ mag then 0x40#8
      else if neg = true ∧ k.val = P then 0x40#8
      else if 0 < place ∧ mag < 10 ^ place ∧ lz = false then 0x00#8
      else glyphOf c (mag / 10 ^ place % 10)

/-- R158 (h): no position of a formatted number has bit 7 set. -/
def Obligations.FormattedNumberHasNoIndicator : Prop :=
  ∀ (c : Config) (v : Int) (length pos : Nat) (lz an : Bit) (k : Fin 4), c.glyphsClear →
    (formatNumber c v length pos lz an).getLsbD (8 * k.val + 7) = false

/-- R161, R163: the four positions of a formatted time: tens and units of hour and minute, never suppressed, the indicator ORed in at
its position alone when the colon is on. -/
def Obligations.FormatTimePositions : Prop :=
  ∀ (c : Config) (h m : Nat) (colon : Bit) (k : Fin 4),
    (formatTime c h m colon).extractLsb' (8 * k.val) 8 =
      (match k with
        | 0 => glyphOf c (h / 10)
        | 1 => glyphOf c (h % 10)
        | 2 => glyphOf c (m / 10)
        | 3 => glyphOf c (m % 10)) ||| (if colon = true ∧ k = c.indicatorPos then c.indicatorMask else 0x00#8)

/-- R132, R34, R78: the brightness byte is valid, a level above 7 is as level 7, its low bits are the clamped level, and the on and
off bytes of every level differ in the one bit in which the base patterns differ. -/
def Obligations.BrightByteOfLevel : Prop :=
  ∀ (c : Config) (level : Nat) (on : Bit), c.wf →
    brightValid c (brightByte c level on) ∧
    (7 ≤ level → brightByte c level on = brightByte c 7 on) ∧
    (brightByte c level on &&& 0x07#8).toNat = min level 7 ∧
    brightByte c level true ^^^ brightByte c level false = c.cmdDisplayOn ^^^ c.cmdDisplayOff

/-! ### The wires (00_scope.md R13, 40_bus_protocol.md) -/

/-- R107, R111: the DIO levels at the nine rising edges of CLK in a WRITE_BYTE are the byte's bits, bit 0 first, and then the peer's
draw.
What counts as a condition, an edge and a transaction is R13, read as log 13 says; the trace is the model's own field (log 7). -/
def Obligations.WriteByteSendsLowBitFirst : Prop :=
  ∀ (s : State) (b : Byte), s.ready → s.clk.dir = .output → s.dio.dir = .output → ∃ t, exec (.writeByte b) s = .next t ∧
    edgeBits (wiresBetween s t.complete) =
      [b.getLsbD 0, b.getLsbD 1, b.getLsbD 2, b.getLsbD 3, b.getLsbD 4, b.getLsbD 5, b.getLsbD 6, b.getLsbD 7, s.nextDraw]

/-- R112: from either boundary state, START makes exactly one start condition and no stop, STOP exactly one stop condition and no
start, and WRITE_BYTE neither: in WRITE_BYTE_SEQ every change of DIO's latch or direction is made while CLK's latch is 0.
What counts as a condition, an edge and a transaction is R13, read as log 13 says; the trace is the model's own field (log 7). -/
def Obligations.WireConditionsOfSequences : Prop :=
  (∀ (b : Byte) (clk dio : Bit), dioMovesWithClkLow clk dio (writeByteSeq b) = true) ∧
  (∀ s : State, s.ready → atBoundary s.clk s.dio →
    (∃ t, exec .start s = .next t ∧
      (wiresBetween s t.complete).countP (fun e => decide (e = .start)) = 1 ∧ .stop ∉ wiresBetween s t.complete) ∧
    (∃ t, exec .stop s = .next t ∧
      (wiresBetween s t.complete).countP (fun e => decide (e = .stop)) = 1 ∧ .start ∉ wiresBetween s t.complete) ∧
    (∀ b, ∃ t, exec (.writeByte b) s = .next t ∧
      .start ∉ wiresBetween s t.complete ∧ .stop ∉ wiresBetween s t.complete))

/-- R13, R201, R31: what a reset does on the wires, whatever was running: both lines rise to 1, so there is a stop condition if DIO alone
was low, a clock edge with DIO at 1 if CLK alone was low, nothing if neither was, and if both were low the one case of which R201 does not
specify whether it is a stop condition.
Conditions and edges are R13's, read as log 13 says; the levels of the released lines are log 3's and log 14's, and the mark of the reset in
the trace is the model's own (log 7). -/
def Obligations.WireConditionsOfReset : Prop :=
  ∀ (s : State) (rest : List Event), s.inputs = .reset :: rest →
    ∃ t, step s = .next t ∧ t.clkLine = true ∧ t.dioLine = true ∧
      (s.clkLine = true → s.dioLine = false → wiresBetween s t = [.stop]) ∧
      (s.clkLine = false → s.dioLine = true → wiresBetween s t = [.edge true]) ∧
      (s.clkLine = true → s.dioLine = true → wiresBetween s t = []) ∧
      (s.clkLine = false → s.dioLine = false → wiresBetween s t = [.bothRise])

/-! ### The host port (10_state.md, 20_memory.md) -/

/-- R22 to R29, R50, R52, R53: what a read of each register of the window returns; the read changes nothing but the read-data
lines.
`rdata`, the host port's read-data lines, is the model's own field (log 6). -/
def Obligations.RegisterReads : Prop :=
  ∀ s : State, ∀ p ∈ ([(0x00, 0#32), (0x04, s.value), (0x08, s.frame), (0x0C, s.status.toWord),
      (0x10, 0#24 ++ s.bright), (0x14, s.frameOut), (0x18, 0#24 ++ s.result), (0x1C, 0#32)] : List (Nat × Word)),
    s.access (.read (s.cfg.baseAddr + p.1) 4) = .next { s with rdata := p.2 }

/-- R26, R52, R53: what a write to each register of the window other than CMD does: VALUE and FRAME store the word, STATUS clears
the error flags selected by its 1 bits, and the read-only registers and the reserved offset keep theirs.
`wdata`, the host port's write-data lines, is the model's own field (log 6). -/
def Obligations.RegisterWrites : Prop :=
  ∀ (s : State) (v : Word),
    s.access (.write (s.cfg.baseAddr + 0x04) 4 v) = .next { s with wdata := v, value := v } ∧
    s.access (.write (s.cfg.baseAddr + 0x08) 4 v) = .next { s with wdata := v, frame := v } ∧
    s.access (.write (s.cfg.baseAddr + 0x0C) 4 v) = .next { s with
      wdata := v
      status := { s.status with
        errIllegal := s.status.errIllegal && !v.getLsbD 4
        errBusy := s.status.errBusy && !v.getLsbD 5
        errNoinit := s.status.errNoinit && !v.getLsbD 6 } } ∧
    ∀ off ∈ [0x10, 0x14, 0x18, 0x1C], s.access (.write (s.cfg.baseAddr + off) 4 v) = .next { s with wdata := v }

/-- R25: the layout of STATUS as it is read, and a host write of w as it is seen there: bits 6:4 are cleared where w has a 1, and
every other bit stays. -/
def Obligations.StatusWordLayoutAndClearing : Prop :=
  ∀ (t : Status) (w : Word),
    t.toWord.getLsbD 0 = t.busy ∧ t.toWord.getLsbD 1 = t.ack ∧ t.toWord.getLsbD 2 = t.ackValid ∧
    t.toWord.getLsbD 3 = t.init ∧ t.toWord.getLsbD 4 = t.errIllegal ∧ t.toWord.getLsbD 5 = t.errBusy ∧
    t.toWord.getLsbD 6 = t.errNoinit ∧ t.toWord.toNat < 2 ^ 7 ∧
    (t.writeOneClear w).toWord = t.toWord &&& ~~~(w &&& 0x00000070#32)

/-- R51: an access that is not 32 bits wide, not aligned or not in the window is refused, and no state follows it.
For an access outside the window it is the model's choice (log 8). -/
def Obligations.UndefinedAccessesAreRefused : Prop :=
  ∀ (s : State) (addr size : Nat) (v : Word),
    size ≠ 4 ∨ addr < s.cfg.baseAddr ∨ s.cfg.baseAddr + 32 ≤ addr ∨ (addr - s.cfg.baseAddr) % 4 ≠ 0 →
    s.access (.read addr size) = .refused (.undefinedAccess addr size) ∧
    s.access (.write addr size v) = .refused (.undefinedAccess addr size)

/-! ### Steps of the machine -/

/-- R181, R38: a step runs the decoded operation: when the next thing scheduled is a host write of a word that decodes to `i`
to `CMD`, the step is `exec i` of the state with that write taken from the schedule and its word on the write-data lines.
How a word comes to be presented is the model's choice (log 1, log 6, log 11). -/
def Obligations.StepRunsTheDecodedOperation : Prop :=
  (∀ (s : State) (w : Word) (i : Instr) (rest : List Event),
    s.inputs = .host (.write s.cfg.baseAddr 4 w) :: rest → decode w = .ok i →
    step s = exec i { s with inputs := rest, wdata := w }) ∧
  (∀ (s : State) (nbits w : Nat) (i : Instr), decodeTableWord nbits w = some i →
    step (s.withFetchWord nbits w) = exec i { s with wdata := BitVec.ofNat 32 (w % 2 ^ nbits) })

/-- R38, R81: whose step the next one is: the head of the schedule, and the engine's when the schedule is empty. POLL reads STATUS
and is done when BUSY is 0, and otherwise reads again after one engine turn (the model's choice, log 9). -/
def Obligations.StepTakesTheScheduledTurn : Prop :=
  (∀ s : State, s.inputs = [] → step s = .next s.engineStep) ∧
  (∀ (s : State) (rest : List Event), s.inputs = .engine :: rest →
    step s = .next { s with inputs := rest }.engineStep) ∧
  (∀ (s : State) (a : HostAccess) (rest : List Event), s.inputs = .host a :: rest →
    step s = { s with inputs := rest }.access a) ∧
  (∀ (s : State) (rest : List Event), s.inputs = .poll :: rest →
    step s = .next { s with
      rdata := s.status.toWord
      inputs := if s.status.busy = true then .engine :: .poll :: rest else rest })

/-- R200, R201, R39: a reset step, in any state, an operation running or not: every piece of the engine's state has its reset value, the
rest of `prog` is discarded, both lines read 1. The parameters, the schedule, the peer's coming levels and the recorded trace
stay (the model's choice, log 15). The mark of the reset in the trace is the model's own (log 7), with the levels of the released lines: DIO's,
`peerDio`, is log 3's (DEDUCED) and CLK's log 14's (PRESUMED). -/
def Obligations.ResetStepValues : Prop :=
  ∀ (s : State) (rest : List Event), s.inputs = .reset :: rest →
    step s = .next
      { value := 0#32, frame := 0#32, status := ⟨false, false, false, false, false, false, false⟩
        bright := s.cfg.cmdDisplayOn ||| 7#8, frameOut := 0#32, result := 0#8, prog := []
        lat := ⟨0#4, 0#8, 0#8, false, false, 0, 0#32⟩, ackLatch := true
        clk := ⟨.input, true⟩, dio := ⟨.input, true⟩, cfg := s.cfg
        peerDio := true, peerDraws := s.peerDraws, drawCount := s.drawCount
        wdata := s.wdata, rdata := s.rdata, inputs := rest
        trace := s.trace ++ [⟨.reset, true, true⟩] }

/-- R80, R81: what each line of a host program stands for, the five pseudo-instructions POLL, SHOW, SHOW_AT, SEGS and CLRERR among them; the
assembler refuses an operation with an operand that does not fit its field, and takes the lines in order. POLL reads STATUS, and reads it
again while bit 0 of what it read is 1.
That a program's form is a list of events is the model's choice (log 11), the one engine turn between two reads of a
POLL (log 9), and that no engine step falls between two lines (log 18). -/
def Obligations.PseudoInstructionsExpand : Prop :=
  (∀ (base : Nat) (r : Reg) (v : Word),
    assemble base [.wr r v] = some [.host (.write (base + r.offset) 4 v)] ∧
    assemble base [.rd r] = some [.host (.read (base + r.offset) 4)]) ∧
  (∀ (base : Nat) (i : Instr),
    assemble base [.command i] = (if i.wf = true then some [.host (.write base 4 (encode i))] else none)) ∧
  (∀ (base : Nat) (v : Word) (length pos : Nat) (lz an : Bit),
    assemble base [.poll] = some [.poll] ∧
    assemble base [.showValue v lz an] =
      some [.host (.write (base + 0x04) 4 v), .host (.write base 4 (encode (.showNumber lz an)))] ∧
    assemble base [.showValueAt v length pos lz an] =
      (if length ≤ 7 ∧ pos ≤ 7 then
        some [.host (.write (base + 0x04) 4 v), .host (.write base 4 (encode (.showNumberAt length pos lz an)))]
      else none) ∧
    assemble base [.segs v] =
      some [.host (.write (base + 0x08) 4 v), .host (.write base 4 0x00000009#32)] ∧
    assemble base [.clrerr] = some [.host (.write (base + 0x0C) 4 0x00000070#32)]) ∧
  (∀ (base : Nat) (p q : List HostLine),
    assemble base (p ++ q) = (assemble base p).bind fun a => (assemble base q).map fun b => a ++ b) ∧
  (∀ (s : State) (rest : List Event), s.inputs = .poll :: rest →
    ∃ t, s.access (.read (s.cfg.baseAddr + 0x0C) 4) = .next t ∧
      step s = .next { t with inputs := if t.rdata.getLsbD 0 = true then .engine :: .poll :: rest else rest })

/-- R203: the end of a host program. A program ends in a step that is a read of STATUS after its last line and returns BUSY = 0; the end state
is the state at that read, which has nothing scheduled. In a state where BUSY says whether `prog` is non-empty, every program that
assembles ends so: its lines are all executed, `prog` is empty, and the read has returned STATUS with BUSY = 0.
That the host goes on reading after the last line is the model's form of R203 (log 17), and that no engine step falls between two lines its choice
(log 18). -/
def Obligations.HostProgramsEnd : Prop :=
  (∀ s t : State, s.ended t →
    s.status.busy = false ∧ t = { s with inputs := [], rdata := s.status.toWord } ∧ t.rdata.getLsbD 0 = false) ∧
  (∀ (s : State) (p : List HostLine) (events : List Event), s.busyAgrees →
    assembleProgram s.cfg.baseAddr p = some events →
    ∃ (fuel : Nat) (u t : State), State.runToEnd fuel { s with inputs := events } = some t ∧ u.ended t ∧ t.prog = [] ∧ t.cfg = s.cfg)
end

