-- ==== Sys2Proof/Laws/State.lean ====
section
/-! SUPPORT. One lemma per field of the state for each named update: what the update leaves there. -/

namespace Sys2Proof.Machine

/-! ### The bus monitor's record -/

@[simp] theorem State.record_value (s : State) (ev : BusEvent) : (s.record ev).value = s.value := rfl
@[simp] theorem State.record_frame (s : State) (ev : BusEvent) : (s.record ev).frame = s.frame := rfl
@[simp] theorem State.record_status (s : State) (ev : BusEvent) : (s.record ev).status = s.status := rfl
@[simp] theorem State.record_bright (s : State) (ev : BusEvent) : (s.record ev).bright = s.bright := rfl
@[simp] theorem State.record_frameOut (s : State) (ev : BusEvent) : (s.record ev).frameOut = s.frameOut := rfl
@[simp] theorem State.record_result (s : State) (ev : BusEvent) : (s.record ev).result = s.result := rfl
@[simp] theorem State.record_prog (s : State) (ev : BusEvent) : (s.record ev).prog = s.prog := rfl
@[simp] theorem State.record_lat (s : State) (ev : BusEvent) : (s.record ev).lat = s.lat := rfl
@[simp] theorem State.record_ackLatch (s : State) (ev : BusEvent) : (s.record ev).ackLatch = s.ackLatch := rfl
@[simp] theorem State.record_clk (s : State) (ev : BusEvent) : (s.record ev).clk = s.clk := rfl
@[simp] theorem State.record_dio (s : State) (ev : BusEvent) : (s.record ev).dio = s.dio := rfl
@[simp] theorem State.record_cfg (s : State) (ev : BusEvent) : (s.record ev).cfg = s.cfg := rfl
@[simp] theorem State.record_peerDio (s : State) (ev : BusEvent) : (s.record ev).peerDio = s.peerDio := rfl
@[simp] theorem State.record_peerDraws (s : State) (ev : BusEvent) : (s.record ev).peerDraws = s.peerDraws := rfl
@[simp] theorem State.record_drawCount (s : State) (ev : BusEvent) : (s.record ev).drawCount = s.drawCount := rfl
@[simp] theorem State.record_wdata (s : State) (ev : BusEvent) : (s.record ev).wdata = s.wdata := rfl
@[simp] theorem State.record_rdata (s : State) (ev : BusEvent) : (s.record ev).rdata = s.rdata := rfl
@[simp] theorem State.record_inputs (s : State) (ev : BusEvent) : (s.record ev).inputs = s.inputs := rfl

@[simp] theorem State.record_trace (s : State) (ev : BusEvent) :
    (s.record ev).trace = s.trace ++ [⟨ev, s.clkLine, s.dioLine⟩] := rfl

/-! ### Pins -/

@[simp] theorem State.setPin_value (s : State) (p : PinName) (q : Pin) : (s.setPin p q).value = s.value := by cases p <;> rfl
@[simp] theorem State.setPin_frame (s : State) (p : PinName) (q : Pin) : (s.setPin p q).frame = s.frame := by cases p <;> rfl
@[simp] theorem State.setPin_status (s : State) (p : PinName) (q : Pin) : (s.setPin p q).status = s.status := by cases p <;> rfl
@[simp] theorem State.setPin_bright (s : State) (p : PinName) (q : Pin) : (s.setPin p q).bright = s.bright := by cases p <;> rfl
@[simp] theorem State.setPin_frameOut (s : State) (p : PinName) (q : Pin) : (s.setPin p q).frameOut = s.frameOut := by cases p <;> rfl
@[simp] theorem State.setPin_result (s : State) (p : PinName) (q : Pin) : (s.setPin p q).result = s.result := by cases p <;> rfl
@[simp] theorem State.setPin_prog (s : State) (p : PinName) (q : Pin) : (s.setPin p q).prog = s.prog := by cases p <;> rfl
@[simp] theorem State.setPin_lat (s : State) (p : PinName) (q : Pin) : (s.setPin p q).lat = s.lat := by cases p <;> rfl
@[simp] theorem State.setPin_ackLatch (s : State) (p : PinName) (q : Pin) : (s.setPin p q).ackLatch = s.ackLatch := by cases p <;> rfl
@[simp] theorem State.setPin_cfg (s : State) (p : PinName) (q : Pin) : (s.setPin p q).cfg = s.cfg := by cases p <;> rfl
@[simp] theorem State.setPin_peerDio (s : State) (p : PinName) (q : Pin) : (s.setPin p q).peerDio = s.peerDio := by cases p <;> rfl
@[simp] theorem State.setPin_peerDraws (s : State) (p : PinName) (q : Pin) : (s.setPin p q).peerDraws = s.peerDraws := by cases p <;> rfl
@[simp] theorem State.setPin_drawCount (s : State) (p : PinName) (q : Pin) : (s.setPin p q).drawCount = s.drawCount := by cases p <;> rfl
@[simp] theorem State.setPin_wdata (s : State) (p : PinName) (q : Pin) : (s.setPin p q).wdata = s.wdata := by cases p <;> rfl
@[simp] theorem State.setPin_rdata (s : State) (p : PinName) (q : Pin) : (s.setPin p q).rdata = s.rdata := by cases p <;> rfl
@[simp] theorem State.setPin_inputs (s : State) (p : PinName) (q : Pin) : (s.setPin p q).inputs = s.inputs := by cases p <;> rfl
@[simp] theorem State.setPin_trace (s : State) (p : PinName) (q : Pin) : (s.setPin p q).trace = s.trace := by cases p <;> rfl

@[simp] theorem State.setPin_clk_clk (s : State) (q : Pin) : (s.setPin .clk q).clk = q := rfl
@[simp] theorem State.setPin_clk_dio (s : State) (q : Pin) : (s.setPin .clk q).dio = s.dio := rfl
@[simp] theorem State.setPin_dio_clk (s : State) (q : Pin) : (s.setPin .dio q).clk = s.clk := rfl
@[simp] theorem State.setPin_dio_dio (s : State) (q : Pin) : (s.setPin .dio q).dio = q := rfl
@[simp] theorem State.pin_setPin (s : State) (p : PinName) (q : Pin) : (s.setPin p q).pin p = q := by cases p <;> rfl

/-! ### The peer's draw -/

@[simp] theorem State.takeDraw_value (s : State) : (s.takeDraw).value = s.value := by unfold State.takeDraw; split <;> rfl
@[simp] theorem State.takeDraw_frame (s : State) : (s.takeDraw).frame = s.frame := by unfold State.takeDraw; split <;> rfl
@[simp] theorem State.takeDraw_status (s : State) : (s.takeDraw).status = s.status := by unfold State.takeDraw; split <;> rfl
@[simp] theorem State.takeDraw_bright (s : State) : (s.takeDraw).bright = s.bright := by unfold State.takeDraw; split <;> rfl
@[simp] theorem State.takeDraw_frameOut (s : State) : (s.takeDraw).frameOut = s.frameOut := by unfold State.takeDraw; split <;> rfl
@[simp] theorem State.takeDraw_result (s : State) : (s.takeDraw).result = s.result := by unfold State.takeDraw; split <;> rfl
@[simp] theorem State.takeDraw_prog (s : State) : (s.takeDraw).prog = s.prog := by unfold State.takeDraw; split <;> rfl
@[simp] theorem State.takeDraw_lat (s : State) : (s.takeDraw).lat = s.lat := by unfold State.takeDraw; split <;> rfl
@[simp] theorem State.takeDraw_ackLatch (s : State) : (s.takeDraw).ackLatch = s.ackLatch := by unfold State.takeDraw; split <;> rfl
@[simp] theorem State.takeDraw_clk (s : State) : (s.takeDraw).clk = s.clk := by unfold State.takeDraw; split <;> rfl
@[simp] theorem State.takeDraw_dio (s : State) : (s.takeDraw).dio = s.dio := by unfold State.takeDraw; split <;> rfl
@[simp] theorem State.takeDraw_cfg (s : State) : (s.takeDraw).cfg = s.cfg := by unfold State.takeDraw; split <;> rfl
@[simp] theorem State.takeDraw_wdata (s : State) : (s.takeDraw).wdata = s.wdata := by unfold State.takeDraw; split <;> rfl
@[simp] theorem State.takeDraw_rdata (s : State) : (s.takeDraw).rdata = s.rdata := by unfold State.takeDraw; split <;> rfl
@[simp] theorem State.takeDraw_inputs (s : State) : (s.takeDraw).inputs = s.inputs := by unfold State.takeDraw; split <;> rfl
@[simp] theorem State.takeDraw_trace (s : State) : (s.takeDraw).trace = s.trace := by unfold State.takeDraw; split <;> rfl

@[simp] theorem State.takeDraw_peerDio (s : State) : s.takeDraw.peerDio = s.nextDraw := by
  unfold State.takeDraw State.nextDraw; split <;> rfl
@[simp] theorem State.takeDraw_peerDraws (s : State) : s.takeDraw.peerDraws = s.peerDraws.tail := by
  unfold State.takeDraw; split <;> simp_all
@[simp] theorem State.takeDraw_drawCount (s : State) :
    s.takeDraw.drawCount = if s.peerDraws = [] then s.drawCount + 1 else s.drawCount := by
  unfold State.takeDraw; split <;> simp_all

/-! ### `prog` and `BUSY` -/

@[simp] theorem State.withProg_value (s : State) (p : List MicroStep) : (s.withProg p).value = s.value := rfl
@[simp] theorem State.withProg_frame (s : State) (p : List MicroStep) : (s.withProg p).frame = s.frame := rfl
@[simp] theorem State.withProg_status (s : State) (p : List MicroStep) : (s.withProg p).status = s.status := rfl
@[simp] theorem State.withProg_bright (s : State) (p : List MicroStep) : (s.withProg p).bright = s.bright := rfl
@[simp] theorem State.withProg_frameOut (s : State) (p : List MicroStep) : (s.withProg p).frameOut = s.frameOut := rfl
@[simp] theorem State.withProg_result (s : State) (p : List MicroStep) : (s.withProg p).result = s.result := rfl
@[simp] theorem State.withProg_lat (s : State) (p : List MicroStep) : (s.withProg p).lat = s.lat := rfl
@[simp] theorem State.withProg_ackLatch (s : State) (p : List MicroStep) : (s.withProg p).ackLatch = s.ackLatch := rfl
@[simp] theorem State.withProg_clk (s : State) (p : List MicroStep) : (s.withProg p).clk = s.clk := rfl
@[simp] theorem State.withProg_dio (s : State) (p : List MicroStep) : (s.withProg p).dio = s.dio := rfl
@[simp] theorem State.withProg_cfg (s : State) (p : List MicroStep) : (s.withProg p).cfg = s.cfg := rfl
@[simp] theorem State.withProg_peerDio (s : State) (p : List MicroStep) : (s.withProg p).peerDio = s.peerDio := rfl
@[simp] theorem State.withProg_peerDraws (s : State) (p : List MicroStep) : (s.withProg p).peerDraws = s.peerDraws := rfl
@[simp] theorem State.withProg_drawCount (s : State) (p : List MicroStep) : (s.withProg p).drawCount = s.drawCount := rfl
@[simp] theorem State.withProg_wdata (s : State) (p : List MicroStep) : (s.withProg p).wdata = s.wdata := rfl
@[simp] theorem State.withProg_rdata (s : State) (p : List MicroStep) : (s.withProg p).rdata = s.rdata := rfl
@[simp] theorem State.withProg_inputs (s : State) (p : List MicroStep) : (s.withProg p).inputs = s.inputs := rfl
@[simp] theorem State.withProg_trace (s : State) (p : List MicroStep) : (s.withProg p).trace = s.trace := rfl

@[simp] theorem State.withProg_prog (s : State) (p : List MicroStep) : (s.withProg p).prog = p := rfl

@[simp] theorem State.withBusy_value (s : State) (b : Bit) : (s.withBusy b).value = s.value := rfl
@[simp] theorem State.withBusy_frame (s : State) (b : Bit) : (s.withBusy b).frame = s.frame := rfl
@[simp] theorem State.withBusy_bright (s : State) (b : Bit) : (s.withBusy b).bright = s.bright := rfl
@[simp] theorem State.withBusy_frameOut (s : State) (b : Bit) : (s.withBusy b).frameOut = s.frameOut := rfl
@[simp] theorem State.withBusy_result (s : State) (b : Bit) : (s.withBusy b).result = s.result := rfl
@[simp] theorem State.withBusy_prog (s : State) (b : Bit) : (s.withBusy b).prog = s.prog := rfl
@[simp] theorem State.withBusy_lat (s : State) (b : Bit) : (s.withBusy b).lat = s.lat := rfl
@[simp] theorem State.withBusy_ackLatch (s : State) (b : Bit) : (s.withBusy b).ackLatch = s.ackLatch := rfl
@[simp] theorem State.withBusy_clk (s : State) (b : Bit) : (s.withBusy b).clk = s.clk := rfl
@[simp] theorem State.withBusy_dio (s : State) (b : Bit) : (s.withBusy b).dio = s.dio := rfl
@[simp] theorem State.withBusy_cfg (s : State) (b : Bit) : (s.withBusy b).cfg = s.cfg := rfl
@[simp] theorem State.withBusy_peerDio (s : State) (b : Bit) : (s.withBusy b).peerDio = s.peerDio := rfl
@[simp] theorem State.withBusy_peerDraws (s : State) (b : Bit) : (s.withBusy b).peerDraws = s.peerDraws := rfl
@[simp] theorem State.withBusy_drawCount (s : State) (b : Bit) : (s.withBusy b).drawCount = s.drawCount := rfl
@[simp] theorem State.withBusy_wdata (s : State) (b : Bit) : (s.withBusy b).wdata = s.wdata := rfl
@[simp] theorem State.withBusy_rdata (s : State) (b : Bit) : (s.withBusy b).rdata = s.rdata := rfl
@[simp] theorem State.withBusy_inputs (s : State) (b : Bit) : (s.withBusy b).inputs = s.inputs := rfl
@[simp] theorem State.withBusy_trace (s : State) (b : Bit) : (s.withBusy b).trace = s.trace := rfl

@[simp] theorem State.withBusy_status (s : State) (b : Bit) :
    (s.withBusy b).status = { s.status with busy := b } := rfl

/-! ### The host port and the schedule -/

@[simp] theorem State.withWdata_value (s : State) (w : Word) : (s.withWdata w).value = s.value := rfl
@[simp] theorem State.withWdata_frame (s : State) (w : Word) : (s.withWdata w).frame = s.frame := rfl
@[simp] theorem State.withWdata_status (s : State) (w : Word) : (s.withWdata w).status = s.status := rfl
@[simp] theorem State.withWdata_bright (s : State) (w : Word) : (s.withWdata w).bright = s.bright := rfl
@[simp] theorem State.withWdata_frameOut (s : State) (w : Word) : (s.withWdata w).frameOut = s.frameOut := rfl
@[simp] theorem State.withWdata_result (s : State) (w : Word) : (s.withWdata w).result = s.result := rfl
@[simp] theorem State.withWdata_prog (s : State) (w : Word) : (s.withWdata w).prog = s.prog := rfl
@[simp] theorem State.withWdata_lat (s : State) (w : Word) : (s.withWdata w).lat = s.lat := rfl
@[simp] theorem State.withWdata_ackLatch (s : State) (w : Word) : (s.withWdata w).ackLatch = s.ackLatch := rfl
@[simp] theorem State.withWdata_clk (s : State) (w : Word) : (s.withWdata w).clk = s.clk := rfl
@[simp] theorem State.withWdata_dio (s : State) (w : Word) : (s.withWdata w).dio = s.dio := rfl
@[simp] theorem State.withWdata_cfg (s : State) (w : Word) : (s.withWdata w).cfg = s.cfg := rfl
@[simp] theorem State.withWdata_peerDio (s : State) (w : Word) : (s.withWdata w).peerDio = s.peerDio := rfl
@[simp] theorem State.withWdata_peerDraws (s : State) (w : Word) : (s.withWdata w).peerDraws = s.peerDraws := rfl
@[simp] theorem State.withWdata_drawCount (s : State) (w : Word) : (s.withWdata w).drawCount = s.drawCount := rfl
@[simp] theorem State.withWdata_rdata (s : State) (w : Word) : (s.withWdata w).rdata = s.rdata := rfl
@[simp] theorem State.withWdata_inputs (s : State) (w : Word) : (s.withWdata w).inputs = s.inputs := rfl
@[simp] theorem State.withWdata_trace (s : State) (w : Word) : (s.withWdata w).trace = s.trace := rfl

@[simp] theorem State.withWdata_wdata (s : State) (w : Word) : (s.withWdata w).wdata = w := rfl

@[simp] theorem State.withRdata_value (s : State) (w : Word) : (s.withRdata w).value = s.value := rfl
@[simp] theorem State.withRdata_frame (s : State) (w : Word) : (s.withRdata w).frame = s.frame := rfl
@[simp] theorem State.withRdata_status (s : State) (w : Word) : (s.withRdata w).status = s.status := rfl
@[simp] theorem State.withRdata_bright (s : State) (w : Word) : (s.withRdata w).bright = s.bright := rfl
@[simp] theorem State.withRdata_frameOut (s : State) (w : Word) : (s.withRdata w).frameOut = s.frameOut := rfl
@[simp] theorem State.withRdata_result (s : State) (w : Word) : (s.withRdata w).result = s.result := rfl
@[simp] theorem State.withRdata_prog (s : State) (w : Word) : (s.withRdata w).prog = s.prog := rfl
@[simp] theorem State.withRdata_lat (s : State) (w : Word) : (s.withRdata w).lat = s.lat := rfl
@[simp] theorem State.withRdata_ackLatch (s : State) (w : Word) : (s.withRdata w).ackLatch = s.ackLatch := rfl
@[simp] theorem State.withRdata_clk (s : State) (w : Word) : (s.withRdata w).clk = s.clk := rfl
@[simp] theorem State.withRdata_dio (s : State) (w : Word) : (s.withRdata w).dio = s.dio := rfl
@[simp] theorem State.withRdata_cfg (s : State) (w : Word) : (s.withRdata w).cfg = s.cfg := rfl
@[simp] theorem State.withRdata_peerDio (s : State) (w : Word) : (s.withRdata w).peerDio = s.peerDio := rfl
@[simp] theorem State.withRdata_peerDraws (s : State) (w : Word) : (s.withRdata w).peerDraws = s.peerDraws := rfl
@[simp] theorem State.withRdata_drawCount (s : State) (w : Word) : (s.withRdata w).drawCount = s.drawCount := rfl
@[simp] theorem State.withRdata_wdata (s : State) (w : Word) : (s.withRdata w).wdata = s.wdata := rfl
@[simp] theorem State.withRdata_inputs (s : State) (w : Word) : (s.withRdata w).inputs = s.inputs := rfl
@[simp] theorem State.withRdata_trace (s : State) (w : Word) : (s.withRdata w).trace = s.trace := rfl

@[simp] theorem State.withRdata_rdata (s : State) (w : Word) : (s.withRdata w).rdata = w := rfl

@[simp] theorem State.withInputs_value (s : State) (l : List Event) : (s.withInputs l).value = s.value := rfl
@[simp] theorem State.withInputs_frame (s : State) (l : List Event) : (s.withInputs l).frame = s.frame := rfl
@[simp] theorem State.withInputs_status (s : State) (l : List Event) : (s.withInputs l).status = s.status := rfl
@[simp] theorem State.withInputs_bright (s : State) (l : List Event) : (s.withInputs l).bright = s.bright := rfl
@[simp] theorem State.withInputs_frameOut (s : State) (l : List Event) : (s.withInputs l).frameOut = s.frameOut := rfl
@[simp] theorem State.withInputs_result (s : State) (l : List Event) : (s.withInputs l).result = s.result := rfl
@[simp] theorem State.withInputs_prog (s : State) (l : List Event) : (s.withInputs l).prog = s.prog := rfl
@[simp] theorem State.withInputs_lat (s : State) (l : List Event) : (s.withInputs l).lat = s.lat := rfl
@[simp] theorem State.withInputs_ackLatch (s : State) (l : List Event) : (s.withInputs l).ackLatch = s.ackLatch := rfl
@[simp] theorem State.withInputs_clk (s : State) (l : List Event) : (s.withInputs l).clk = s.clk := rfl
@[simp] theorem State.withInputs_dio (s : State) (l : List Event) : (s.withInputs l).dio = s.dio := rfl
@[simp] theorem State.withInputs_cfg (s : State) (l : List Event) : (s.withInputs l).cfg = s.cfg := rfl
@[simp] theorem State.withInputs_peerDio (s : State) (l : List Event) : (s.withInputs l).peerDio = s.peerDio := rfl
@[simp] theorem State.withInputs_peerDraws (s : State) (l : List Event) : (s.withInputs l).peerDraws = s.peerDraws := rfl
@[simp] theorem State.withInputs_drawCount (s : State) (l : List Event) : (s.withInputs l).drawCount = s.drawCount := rfl
@[simp] theorem State.withInputs_wdata (s : State) (l : List Event) : (s.withInputs l).wdata = s.wdata := rfl
@[simp] theorem State.withInputs_rdata (s : State) (l : List Event) : (s.withInputs l).rdata = s.rdata := rfl
@[simp] theorem State.withInputs_trace (s : State) (l : List Event) : (s.withInputs l).trace = s.trace := rfl

@[simp] theorem State.withInputs_inputs (s : State) (l : List Event) : (s.withInputs l).inputs = l := rfl

/-! ### Rejection, acceptance and the end of an engine step -/

@[simp] theorem State.raise_value (s : State) (e : CmdError) : (s.raise e).value = s.value := rfl
@[simp] theorem State.raise_frame (s : State) (e : CmdError) : (s.raise e).frame = s.frame := rfl
@[simp] theorem State.raise_bright (s : State) (e : CmdError) : (s.raise e).bright = s.bright := rfl
@[simp] theorem State.raise_frameOut (s : State) (e : CmdError) : (s.raise e).frameOut = s.frameOut := rfl
@[simp] theorem State.raise_result (s : State) (e : CmdError) : (s.raise e).result = s.result := rfl
@[simp] theorem State.raise_prog (s : State) (e : CmdError) : (s.raise e).prog = s.prog := rfl
@[simp] theorem State.raise_lat (s : State) (e : CmdError) : (s.raise e).lat = s.lat := rfl
@[simp] theorem State.raise_ackLatch (s : State) (e : CmdError) : (s.raise e).ackLatch = s.ackLatch := rfl
@[simp] theorem State.raise_clk (s : State) (e : CmdError) : (s.raise e).clk = s.clk := rfl
@[simp] theorem State.raise_dio (s : State) (e : CmdError) : (s.raise e).dio = s.dio := rfl
@[simp] theorem State.raise_cfg (s : State) (e : CmdError) : (s.raise e).cfg = s.cfg := rfl
@[simp] theorem State.raise_peerDio (s : State) (e : CmdError) : (s.raise e).peerDio = s.peerDio := rfl
@[simp] theorem State.raise_peerDraws (s : State) (e : CmdError) : (s.raise e).peerDraws = s.peerDraws := rfl
@[simp] theorem State.raise_drawCount (s : State) (e : CmdError) : (s.raise e).drawCount = s.drawCount := rfl
@[simp] theorem State.raise_wdata (s : State) (e : CmdError) : (s.raise e).wdata = s.wdata := rfl
@[simp] theorem State.raise_rdata (s : State) (e : CmdError) : (s.raise e).rdata = s.rdata := rfl
@[simp] theorem State.raise_inputs (s : State) (e : CmdError) : (s.raise e).inputs = s.inputs := rfl
@[simp] theorem State.raise_trace (s : State) (e : CmdError) : (s.raise e).trace = s.trace := rfl

@[simp] theorem State.raise_status (s : State) (e : CmdError) : (s.raise e).status = s.status.raise e := rfl

@[simp] theorem State.writeStatus_value (s : State) (w : Word) : (s.writeStatus w).value = s.value := rfl
@[simp] theorem State.writeStatus_frame (s : State) (w : Word) : (s.writeStatus w).frame = s.frame := rfl
@[simp] theorem State.writeStatus_bright (s : State) (w : Word) : (s.writeStatus w).bright = s.bright := rfl
@[simp] theorem State.writeStatus_frameOut (s : State) (w : Word) : (s.writeStatus w).frameOut = s.frameOut := rfl
@[simp] theorem State.writeStatus_result (s : State) (w : Word) : (s.writeStatus w).result = s.result := rfl
@[simp] theorem State.writeStatus_prog (s : State) (w : Word) : (s.writeStatus w).prog = s.prog := rfl
@[simp] theorem State.writeStatus_lat (s : State) (w : Word) : (s.writeStatus w).lat = s.lat := rfl
@[simp] theorem State.writeStatus_ackLatch (s : State) (w : Word) : (s.writeStatus w).ackLatch = s.ackLatch := rfl
@[simp] theorem State.writeStatus_clk (s : State) (w : Word) : (s.writeStatus w).clk = s.clk := rfl
@[simp] theorem State.writeStatus_dio (s : State) (w : Word) : (s.writeStatus w).dio = s.dio := rfl
@[simp] theorem State.writeStatus_cfg (s : State) (w : Word) : (s.writeStatus w).cfg = s.cfg := rfl
@[simp] theorem State.writeStatus_peerDio (s : State) (w : Word) : (s.writeStatus w).peerDio = s.peerDio := rfl
@[simp] theorem State.writeStatus_peerDraws (s : State) (w : Word) : (s.writeStatus w).peerDraws = s.peerDraws := rfl
@[simp] theorem State.writeStatus_drawCount (s : State) (w : Word) : (s.writeStatus w).drawCount = s.drawCount := rfl
@[simp] theorem State.writeStatus_wdata (s : State) (w : Word) : (s.writeStatus w).wdata = s.wdata := rfl
@[simp] theorem State.writeStatus_rdata (s : State) (w : Word) : (s.writeStatus w).rdata = s.rdata := rfl
@[simp] theorem State.writeStatus_inputs (s : State) (w : Word) : (s.writeStatus w).inputs = s.inputs := rfl
@[simp] theorem State.writeStatus_trace (s : State) (w : Word) : (s.writeStatus w).trace = s.trace := rfl

@[simp] theorem State.writeStatus_status (s : State) (w : Word) :
    (s.writeStatus w).status = s.status.writeOneClear w := rfl

@[simp] theorem State.accept_value (s : State) (i : Instr) (p : List MicroStep) : (s.accept i p).value = s.value := rfl
@[simp] theorem State.accept_frame (s : State) (i : Instr) (p : List MicroStep) : (s.accept i p).frame = s.frame := rfl
@[simp] theorem State.accept_bright (s : State) (i : Instr) (p : List MicroStep) : (s.accept i p).bright = s.bright := rfl
@[simp] theorem State.accept_frameOut (s : State) (i : Instr) (p : List MicroStep) : (s.accept i p).frameOut = s.frameOut := rfl
@[simp] theorem State.accept_result (s : State) (i : Instr) (p : List MicroStep) : (s.accept i p).result = s.result := rfl
@[simp] theorem State.accept_ackLatch (s : State) (i : Instr) (p : List MicroStep) : (s.accept i p).ackLatch = s.ackLatch := rfl
@[simp] theorem State.accept_clk (s : State) (i : Instr) (p : List MicroStep) : (s.accept i p).clk = s.clk := rfl
@[simp] theorem State.accept_dio (s : State) (i : Instr) (p : List MicroStep) : (s.accept i p).dio = s.dio := rfl
@[simp] theorem State.accept_cfg (s : State) (i : Instr) (p : List MicroStep) : (s.accept i p).cfg = s.cfg := rfl
@[simp] theorem State.accept_peerDio (s : State) (i : Instr) (p : List MicroStep) : (s.accept i p).peerDio = s.peerDio := rfl
@[simp] theorem State.accept_peerDraws (s : State) (i : Instr) (p : List MicroStep) : (s.accept i p).peerDraws = s.peerDraws := rfl
@[simp] theorem State.accept_drawCount (s : State) (i : Instr) (p : List MicroStep) : (s.accept i p).drawCount = s.drawCount := rfl
@[simp] theorem State.accept_wdata (s : State) (i : Instr) (p : List MicroStep) : (s.accept i p).wdata = s.wdata := rfl
@[simp] theorem State.accept_rdata (s : State) (i : Instr) (p : List MicroStep) : (s.accept i p).rdata = s.rdata := rfl
@[simp] theorem State.accept_inputs (s : State) (i : Instr) (p : List MicroStep) : (s.accept i p).inputs = s.inputs := rfl
@[simp] theorem State.accept_trace (s : State) (i : Instr) (p : List MicroStep) : (s.accept i p).trace = s.trace := rfl

@[simp] theorem State.accept_prog (s : State) (i : Instr) (p : List MicroStep) : (s.accept i p).prog = p := rfl
@[simp] theorem State.accept_lat (s : State) (i : Instr) (p : List MicroStep) : (s.accept i p).lat = s.latchOf i := rfl
@[simp] theorem State.accept_status (s : State) (i : Instr) (p : List MicroStep) :
    (s.accept i p).status = { s.status with busy := true, init := s.status.init || i.opcode == 0x5#4 } := rfl

@[simp] theorem State.settleBusy_value (s : State) : (s.settleBusy).value = s.value := by unfold State.settleBusy; split <;> rfl
@[simp] theorem State.settleBusy_frame (s : State) : (s.settleBusy).frame = s.frame := by unfold State.settleBusy; split <;> rfl
@[simp] theorem State.settleBusy_bright (s : State) : (s.settleBusy).bright = s.bright := by unfold State.settleBusy; split <;> rfl
@[simp] theorem State.settleBusy_frameOut (s : State) : (s.settleBusy).frameOut = s.frameOut := by unfold State.settleBusy; split <;> rfl
@[simp] theorem State.settleBusy_result (s : State) : (s.settleBusy).result = s.result := by unfold State.settleBusy; split <;> rfl
@[simp] theorem State.settleBusy_prog (s : State) : (s.settleBusy).prog = s.prog := by unfold State.settleBusy; split <;> rfl
@[simp] theorem State.settleBusy_lat (s : State) : (s.settleBusy).lat = s.lat := by unfold State.settleBusy; split <;> rfl
@[simp] theorem State.settleBusy_ackLatch (s : State) : (s.settleBusy).ackLatch = s.ackLatch := by unfold State.settleBusy; split <;> rfl
@[simp] theorem State.settleBusy_clk (s : State) : (s.settleBusy).clk = s.clk := by unfold State.settleBusy; split <;> rfl
@[simp] theorem State.settleBusy_dio (s : State) : (s.settleBusy).dio = s.dio := by unfold State.settleBusy; split <;> rfl
@[simp] theorem State.settleBusy_cfg (s : State) : (s.settleBusy).cfg = s.cfg := by unfold State.settleBusy; split <;> rfl
@[simp] theorem State.settleBusy_peerDio (s : State) : (s.settleBusy).peerDio = s.peerDio := by unfold State.settleBusy; split <;> rfl
@[simp] theorem State.settleBusy_peerDraws (s : State) : (s.settleBusy).peerDraws = s.peerDraws := by unfold State.settleBusy; split <;> rfl
@[simp] theorem State.settleBusy_drawCount (s : State) : (s.settleBusy).drawCount = s.drawCount := by unfold State.settleBusy; split <;> rfl
@[simp] theorem State.settleBusy_wdata (s : State) : (s.settleBusy).wdata = s.wdata := by unfold State.settleBusy; split <;> rfl
@[simp] theorem State.settleBusy_rdata (s : State) : (s.settleBusy).rdata = s.rdata := by unfold State.settleBusy; split <;> rfl
@[simp] theorem State.settleBusy_inputs (s : State) : (s.settleBusy).inputs = s.inputs := by unfold State.settleBusy; split <;> rfl
@[simp] theorem State.settleBusy_trace (s : State) : (s.settleBusy).trace = s.trace := by unfold State.settleBusy; split <;> rfl

@[simp] theorem State.settleBusy_status (s : State) :
    s.settleBusy.status = { s.status with busy := s.status.busy && !s.prog.isEmpty } := by
  unfold State.settleBusy; split <;> simp_all

/-! ### Status -/

@[simp] theorem Status.raise_of_illegal (t : Status) : t.raise .illegal = { t with errIllegal := true } := rfl
@[simp] theorem Status.raise_of_busy (t : Status) : t.raise .busy = { t with errBusy := true } := rfl
@[simp] theorem Status.raise_of_noinit (t : Status) : t.raise .noinit = { t with errNoinit := true } := rfl
@[simp] theorem Status.writeOneClear_busy (t : Status) (w : Word) : (t.writeOneClear w).busy = t.busy := rfl
@[simp] theorem Status.writeOneClear_ack (t : Status) (w : Word) : (t.writeOneClear w).ack = t.ack := rfl
@[simp] theorem Status.writeOneClear_ackValid (t : Status) (w : Word) : (t.writeOneClear w).ackValid = t.ackValid := rfl
@[simp] theorem Status.writeOneClear_init (t : Status) (w : Word) : (t.writeOneClear w).init = t.init := rfl
@[simp] theorem Status.publishAck_busy (t : Status) (b : Bit) : (t.publishAck b).busy = t.busy := rfl
@[simp] theorem Status.publishAck_init (t : Status) (b : Bit) : (t.publishAck b).init = t.init := rfl
@[simp] theorem Status.publishAck_errIllegal (t : Status) (b : Bit) : (t.publishAck b).errIllegal = t.errIllegal := rfl
@[simp] theorem Status.publishAck_errBusy (t : Status) (b : Bit) : (t.publishAck b).errBusy = t.errBusy := rfl
@[simp] theorem Status.publishAck_errNoinit (t : Status) (b : Bit) : (t.publishAck b).errNoinit = t.errNoinit := rfl
@[simp] theorem Status.publishAck_ack (t : Status) (b : Bit) : (t.publishAck b).ack = !b := rfl
@[simp] theorem Status.publishAck_ackValid (t : Status) (b : Bit) : (t.publishAck b).ackValid = true := rfl
@[simp] theorem Status.raise_busy (t : Status) (e : CmdError) : (t.raise e).busy = t.busy := by cases e <;> rfl
@[simp] theorem Status.raise_ack (t : Status) (e : CmdError) : (t.raise e).ack = t.ack := by cases e <;> rfl
@[simp] theorem Status.raise_ackValid (t : Status) (e : CmdError) : (t.raise e).ackValid = t.ackValid := by cases e <;> rfl
@[simp] theorem Status.raise_init (t : Status) (e : CmdError) : (t.raise e).init = t.init := by cases e <;> rfl

end Sys2Proof.Machine
end

