-- ==== Sys2Proof/Laws/Engine.lean ====
section
/-! SUPPORT. What a micro-step, an engine step and a run of engine steps can do, said once: the fields no micro-step writes,
and a run as the micro-steps of `prog` performed in order. -/

namespace Sys2Proof.Machine

/-! ### One micro-step -/

@[simp] theorem State.perform_dirOut (s : State) (p : PinName) :
    s.perform (.dirOut p) = (s.setPin p { s.pin p with dir := .output }).record (.dirOut p) := by
  cases p <;> rfl
@[simp] theorem State.perform_dirIn_clk (s : State) :
    s.perform (.dirIn .clk) = (s.setPin .clk { s.clk with dir := .input }).record (.dirIn .clk) := rfl
@[simp] theorem State.perform_dirIn_dio (s : State) :
    s.perform (.dirIn .dio) = (s.setPin .dio { s.dio with dir := .input }).takeDraw.record (.dirIn .dio) := rfl
@[simp] theorem State.perform_drive (s : State) (p : PinName) (v : Bit) :
    s.perform (.drive p v) = (s.setPin p { s.pin p with lat := v }).record (.drive p v) := by
  cases p <;> rfl
@[simp] theorem State.perform_wait (s : State) : s.perform .wait = s.record .wait := rfl
@[simp] theorem State.perform_sample (s : State) :
    s.perform .sample = { s with ackLatch := s.dioLine }.record (.sample s.dioLine) := rfl
@[simp] theorem State.perform_setBright (s : State) (v : Byte) : s.perform (.setBright v) = { s with bright := v } := rfl
@[simp] theorem State.perform_setFrameOut (s : State) (f : Word) :
    s.perform (.setFrameOut f) = { s with frameOut := f } := rfl
@[simp] theorem State.perform_setResult (s : State) (v : Byte) : s.perform (.setResult v) = { s with result := v } := rfl
@[simp] theorem State.perform_publishAck (s : State) :
    s.perform .publishAck = { s with status := s.status.publishAck s.ackLatch } := rfl

/-- The fields no micro-step writes. -/
structure State.SameHostSide (s t : State) : Prop where
  value : t.value = s.value
  frame : t.frame = s.frame
  prog : t.prog = s.prog
  lat : t.lat = s.lat
  cfg : t.cfg = s.cfg
  wdata : t.wdata = s.wdata
  rdata : t.rdata = s.rdata
  inputs : t.inputs = s.inputs
  busy : t.status.busy = s.status.busy
  init : t.status.init = s.status.init
  errIllegal : t.status.errIllegal = s.status.errIllegal
  errBusy : t.status.errBusy = s.status.errBusy
  errNoinit : t.status.errNoinit = s.status.errNoinit

/-- A micro-step writes no operand register, no part of the latch, no parameter and nothing of the host's. -/
theorem State.perform_sameHostSide (s : State) (m : MicroStep) : s.SameHostSide (s.perform m) := by
  rcases m with p | (_ | _) | ⟨p, v⟩ | _ | _ | v | f | v | _ <;> constructor <;> simp

@[simp] theorem State.perform_value (s : State) (m : MicroStep) : (s.perform m).value = s.value :=
  (s.perform_sameHostSide m).value
@[simp] theorem State.perform_frame (s : State) (m : MicroStep) : (s.perform m).frame = s.frame :=
  (s.perform_sameHostSide m).frame
@[simp] theorem State.perform_prog (s : State) (m : MicroStep) : (s.perform m).prog = s.prog :=
  (s.perform_sameHostSide m).prog
@[simp] theorem State.perform_lat (s : State) (m : MicroStep) : (s.perform m).lat = s.lat :=
  (s.perform_sameHostSide m).lat
@[simp] theorem State.perform_cfg (s : State) (m : MicroStep) : (s.perform m).cfg = s.cfg :=
  (s.perform_sameHostSide m).cfg
@[simp] theorem State.perform_wdata (s : State) (m : MicroStep) : (s.perform m).wdata = s.wdata :=
  (s.perform_sameHostSide m).wdata
@[simp] theorem State.perform_rdata (s : State) (m : MicroStep) : (s.perform m).rdata = s.rdata :=
  (s.perform_sameHostSide m).rdata
@[simp] theorem State.perform_inputs (s : State) (m : MicroStep) : (s.perform m).inputs = s.inputs :=
  (s.perform_sameHostSide m).inputs
@[simp] theorem State.perform_busy (s : State) (m : MicroStep) : (s.perform m).status.busy = s.status.busy :=
  (s.perform_sameHostSide m).busy
@[simp] theorem State.perform_init (s : State) (m : MicroStep) : (s.perform m).status.init = s.status.init :=
  (s.perform_sameHostSide m).init

/-- A micro-step does not read `prog`. -/
theorem State.perform_withProg (s : State) (m : MicroStep) (q : List MicroStep) :
    (s.withProg q).perform m = (s.perform m).withProg q := by
  rcases m with (_ | _) | (_ | _) | ⟨(_ | _), v⟩ | _ | _ | v | f | v | _ <;>
    first | rfl | (rcases s with ⟨⟩; simp only [State.perform, State.takeDraw, State.setPin, State.withProg]; split <;> rfl)

/-- A micro-step neither reads nor writes `BUSY`. -/
theorem State.perform_withBusy (s : State) (m : MicroStep) (b : Bit) :
    (s.withBusy b).perform m = (s.perform m).withBusy b := by
  rcases m with (_ | _) | (_ | _) | ⟨(_ | _), v⟩ | _ | _ | v | f | v | _ <;>
    first | rfl | (rcases s with ⟨⟩; simp only [State.perform, State.takeDraw, State.setPin, State.withBusy]; split <;> rfl)

@[simp] theorem State.withProg_withProg (s : State) (p q : List MicroStep) : (s.withProg p).withProg q = s.withProg q := rfl
@[simp] theorem State.withProg_self (s : State) : s.withProg s.prog = s := rfl
@[simp] theorem State.withBusy_self (s : State) : s.withBusy s.status.busy = s := rfl

theorem State.settleBusy_nil {s : State} (h : s.prog = []) : s.settleBusy = s.withBusy false := by
  unfold State.settleBusy; rw [h]
theorem State.settleBusy_of_ne {s : State} (h : s.prog ≠ []) : s.settleBusy = s := by
  unfold State.settleBusy; split
  · contradiction
  · rfl

/-! ### The engine step -/

theorem State.engineStep_nil {s : State} (h : s.prog = []) : s.engineStep = s := by
  unfold State.engineStep; rw [h]

theorem State.engineStep_cons {s : State} {m : MicroStep} {rest : List MicroStep} (h : s.prog = m :: rest) :
    s.engineStep = ((s.withProg rest).perform m).settleBusy := by
  unfold State.engineStep; rw [h]

@[simp] theorem State.engineStep_prog (s : State) : s.engineStep.prog = s.prog.tail := by
  unfold State.engineStep; split <;> simp_all

/-- An engine step leaves the operand registers, the latch, the parameters and the host's side alone. -/
theorem State.engineStep_hostSide (s : State) :
    s.engineStep.value = s.value ∧ s.engineStep.frame = s.frame ∧ s.engineStep.lat = s.lat ∧ s.engineStep.cfg = s.cfg ∧
      s.engineStep.wdata = s.wdata ∧ s.engineStep.rdata = s.rdata ∧ s.engineStep.inputs = s.inputs ∧
      s.engineStep.status.init = s.status.init := by
  unfold State.engineStep; split <;> simp

/-! ### Runs of engine steps -/

@[simp] theorem State.engineRun_zero (s : State) : State.engineRun 0 s = s := rfl

@[simp] theorem State.engineRun_succ (n : Nat) (s : State) :
    State.engineRun (n + 1) s = State.engineRun n s.engineStep := rfl

theorem State.engineRun_add (m n : Nat) (s : State) :
    State.engineRun (m + n) s = State.engineRun n (State.engineRun m s) := by
  induction m generalizing s with
  | zero => simp
  | succ m ih => rw [Nat.add_right_comm, State.engineRun_succ, ih, State.engineRun_succ]

/-- A list of micro-steps performed in order. -/
def State.performAll (s : State) (p : List MicroStep) : State := p.foldl State.perform s

@[simp] theorem State.performAll_nil (s : State) : s.performAll [] = s := rfl
@[simp] theorem State.performAll_cons (s : State) (m : MicroStep) (p : List MicroStep) :
    s.performAll (m :: p) = (s.perform m).performAll p := rfl
theorem State.performAll_append (s : State) (p q : List MicroStep) :
    s.performAll (p ++ q) = (s.performAll p).performAll q := by simp [State.performAll, List.foldl_append]

/-- A list of micro-steps leaves what a micro-step leaves. -/
theorem State.performAll_sameHostSide (s : State) (p : List MicroStep) : s.SameHostSide (s.performAll p) := by
  induction p generalizing s with
  | nil => constructor <;> rfl
  | cons m p ih =>
    have h1 := s.perform_sameHostSide m
    have h2 := ih (s.perform m)
    constructor <;> simp only [State.performAll_cons]
    · rw [h2.value, h1.value]
    · rw [h2.frame, h1.frame]
    · rw [h2.prog, h1.prog]
    · rw [h2.lat, h1.lat]
    · rw [h2.cfg, h1.cfg]
    · rw [h2.wdata, h1.wdata]
    · rw [h2.rdata, h1.rdata]
    · rw [h2.inputs, h1.inputs]
    · rw [h2.busy, h1.busy]
    · rw [h2.init, h1.init]
    · rw [h2.errIllegal, h1.errIllegal]
    · rw [h2.errBusy, h1.errBusy]
    · rw [h2.errNoinit, h1.errNoinit]

theorem State.performAll_withProg (s : State) (p q : List MicroStep) :
    (s.withProg q).performAll p = (s.performAll p).withProg q := by
  induction p generalizing s with
  | nil => rfl
  | cons m p ih => rw [State.performAll_cons, State.perform_withProg, ih, State.performAll_cons]

theorem State.performAll_withBusy (s : State) (p : List MicroStep) (b : Bit) :
    (s.withBusy b).performAll p = (s.performAll p).withBusy b := by
  induction p generalizing s with
  | nil => rfl
  | cons m p ih => rw [State.performAll_cons, State.perform_withBusy, ih, State.performAll_cons]

/-- A run over a proper first part of `prog` performs that part. -/
theorem State.engineRun_part {s : State} {p q : List MicroStep} (h : s.prog = p ++ q) (hq : q ≠ []) :
    State.engineRun p.length s = (s.performAll p).withProg q := by
  induction p generalizing s with
  | nil => rw [List.nil_append] at h; rw [← h]; rfl
  | cons m p ih =>
    rw [List.length_cons, State.engineRun_succ, State.engineStep_cons (by rw [h]; rfl),
      State.settleBusy_of_ne (by simp [hq]), ih (by simp), State.perform_withProg, State.performAll_withProg]
    rfl

/-- The operation in `prog` run to its end: every micro-step performed, `prog` empty and `BUSY` 0. -/
theorem State.complete_eq {s : State} (h : s.prog ≠ []) :
    s.complete = ((s.performAll s.prog).withProg []).withBusy false := by
  obtain ⟨p, m, hp⟩ : ∃ p m, s.prog = p ++ [m] := ⟨_, _, (List.dropLast_append_getLast h).symm⟩
  have hlen : s.prog.length = p.length + 1 := by simp [hp]
  rw [State.complete, hlen, State.engineRun_add, State.engineRun_part hp (by simp), State.engineRun_succ,
    State.engineRun_zero, State.engineStep_cons (m := m) (rest := []) rfl, State.settleBusy_nil (by simp),
    State.withProg_withProg, State.perform_withProg, hp, State.performAll_append]
  rfl

end Sys2Proof.Machine
end

