-- ==== Sys2Proof/Laws/Exec.lean ====
section
/-! SUPPORT. What the acceptance step and a step of the machine can do, said once. -/

namespace Sys2Proof.Machine

/-- The micro-steps the meaning of `i` puts in `prog`. -/
def progOf (i : Instr) (s : State) : List MicroStep :=
  match i with
  | .start => startSeq
  | .stop => stopSeq
  | .writeByte byte => writeByteProg byte
  | .sendCommand byte => sendCommandSeq byte
  | .initialise => initialiseProg s.cfg
  | .setBrightness level on => setBrightnessSeq s.cfg level on
  | .clear => setSegmentsSeq s.cfg 0#32 s.bright
  | .setAddress addr => setAddressProg s.cfg addr
  | .setSegments => setSegmentsSeq s.cfg s.frame s.bright
  | .encodeDigit d => encodeDigitProg s.cfg d
  | .showNumberAt length pos lz an => showNumberAtProg s.cfg (s32 s.value) length pos lz an s.bright
  | .showNumber lz an => showNumberAtProg s.cfg (s32 s.value) 4 0 lz an s.bright
  | .showTime hour minute colon => showTimeProg s.cfg hour minute colon s.bright

/-- Every meaning is the acceptance step of its operation. -/
theorem exec_eq (i : Instr) (s : State) : exec i s = .next (s.issue i (progOf i s)) := by
  cases i <;> rfl

theorem State.issue_of_busy {s : State} (h : s.status.busy = true) (i : Instr) (p : List MicroStep) :
    s.issue i p = s.raise .busy := by simp [State.issue, h]

theorem State.issue_of_noinit {s : State} (hb : s.status.busy = false) (hi : s.status.init = false) {i : Instr}
    (ha : allowedBeforeInit i.opcode = false) (p : List MicroStep) : s.issue i p = s.raise .noinit := by
  simp [State.issue, hb, hi, ha]

theorem State.issue_of_ok {s : State} (hb : s.status.busy = false) {i : Instr}
    (ha : s.status.init = true ∨ allowedBeforeInit i.opcode = true) (p : List MicroStep) : s.issue i p = s.accept i p := by
  rcases ha with h | h <;> simp [State.issue, hb, h]

/-- An operation whose word may be accepted is accepted. -/
theorem exec_of_ok {s : State} (hb : s.status.busy = false) {i : Instr}
    (ha : s.status.init = true ∨ allowedBeforeInit i.opcode = true) : exec i s = .next (s.accept i (progOf i s)) := by
  rw [exec_eq, State.issue_of_ok hb ha]

/-- The three things a command of a legal opcode can do (60_exceptions.md R181). -/
theorem exec_cases {i : Instr} {s : State} {o : Host.Outcome State Fault Refusal} (h : exec i s = o) :
    (s.status.busy = true ∧ o = .next (s.raise .busy)) ∨
    (s.status.busy = false ∧ s.status.init = false ∧ allowedBeforeInit i.opcode = false ∧ o = .next (s.raise .noinit)) ∨
    (s.status.busy = false ∧ (s.status.init = true ∨ allowedBeforeInit i.opcode = true) ∧
      o = .next (s.accept i (progOf i s))) := by
  subst h
  rcases hb : s.status.busy with _ | _
  · by_cases ha : s.status.init = true ∨ allowedBeforeInit i.opcode = true
    · exact .inr (.inr ⟨rfl, ha, exec_of_ok hb ha⟩)
    · rw [not_or, Bool.not_eq_true, Bool.not_eq_true] at ha
      exact .inr (.inl ⟨rfl, ha.1, ha.2, by rw [exec_eq, State.issue_of_noinit hb ha.1 ha.2]⟩)
  · exact .inl ⟨rfl, by rw [exec_eq, State.issue_of_busy hb]⟩

/-- The outcomes of a word written to `CMD`: a next state that is a rejection or an acceptance. -/
theorem State.writeCommand_cases (s : State) (w : Word) :
    (∃ e, s.writeCommand w = .next (s.raise e)) ∨
    (∃ i, decode w = .ok i ∧ s.status.busy = false ∧ (s.status.init = true ∨ allowedBeforeInit i.opcode = true) ∧
      s.writeCommand w = .next (s.accept i (progOf i s))) := by
  unfold State.writeCommand
  split
  · rename_i i hi
    rcases exec_cases (i := i) (s := s) rfl with ⟨_, h⟩ | ⟨_, _, _, h⟩ | ⟨hb, ha, h⟩
    · exact .inl ⟨.busy, h⟩
    · exact .inl ⟨.noinit, h⟩
    · exact .inr ⟨i, hi, hb, ha, h⟩
  · refine .inl ?_
    unfold State.rejectReserved
    split
    · exact ⟨.busy, rfl⟩
    · exact ⟨.illegal, rfl⟩

/-- Everything a write to a register other than CMD can do (20_memory.md R52). -/
theorem State.writeReg_cases (s : State) (off : Nat) (v : Word) :
    (off = 0x04 ∧ s.writeReg off v = { s with value := v }) ∨ (off = 0x08 ∧ s.writeReg off v = { s with frame := v }) ∨
    (off = 0x0C ∧ s.writeReg off v = s.writeStatus v) ∨ s.writeReg off v = s := by
  unfold State.writeReg
  split <;> simp

/-- Everything a host access can do. -/
theorem State.access_cases (s : State) (a : HostAccess) :
    (∃ addr size, s.access a = .refused (.undefinedAccess addr size)) ∨
    (∃ r, s.access a = .next (s.withRdata r)) ∨
    (∃ off v, s.access a = .next ((s.withWdata v).writeReg off v)) ∨
    (∃ v, s.access a = (s.withWdata v).writeCommand v) := by
  cases a with
  | read addr size =>
    unfold State.access
    dsimp only
    split
    · exact .inl ⟨_, _, rfl⟩
    · exact .inr (.inl ⟨_, rfl⟩)
  | write addr size v =>
    unfold State.access
    dsimp only
    split
    · exact .inl ⟨_, _, rfl⟩
    · exact .inr (.inr (.inr ⟨v, rfl⟩))
    · exact .inr (.inr (.inl ⟨_, v, rfl⟩))

/-- The state with the given schedule and words on the host port: what a step does before its effect on the engine. -/
def State.atPort (s : State) (ins : List Event) (wd rd : Word) : State := ((s.withInputs ins).withWdata wd).withRdata rd

/-- Everything a step of the machine can do that answers a next state: an engine step, a reset step, a host read (POLL's
included), a host write to a register, a rejected command word, or an accepted one. -/
theorem step_cases {s t : State} (h : step s = .next t) :
    ∃ ins wd rd,
      t = (s.atPort ins wd rd).engineStep ∨
      (t = (s.atPort ins wd rd).resetStep ∧ s.inputs.head? = some .reset) ∨
      t = s.atPort ins wd rd ∨
      (∃ off v, t = (s.atPort ins wd rd).writeReg off v ∧
        s.inputs.head? = some (.host (.write (s.cfg.baseAddr + off) 4 v))) ∨
      (∃ e, t = (s.atPort ins wd rd).raise e) ∨
      (∃ i, decode wd = .ok i ∧ s.status.busy = false ∧
        (s.status.init = true ∨ allowedBeforeInit i.opcode = true) ∧
        t = (s.atPort ins wd rd).accept i (progOf i s)) := by
  unfold step State.turn at h
  split at h
  · injection h with h; subst h
    exact ⟨s.inputs, s.wdata, s.rdata, .inl rfl⟩
  · rename_i rest hin; injection h with h; subst h
    exact ⟨rest, s.wdata, s.rdata, .inl rfl⟩
  · rename_i rest hin; injection h with h; subst h
    exact ⟨rest, s.wdata, s.rdata, .inr (.inl ⟨rfl, by rw [hin]; rfl⟩)⟩
  · rename_i rest hin; injection h with h; subst h
    exact ⟨(s.pollOnce rest).inputs, s.wdata, (s.pollOnce rest).rdata, .inr (.inr (.inl rfl))⟩
  · rename_i a rest hin
    cases a with
    | read addr size =>
      unfold State.access at h
      dsimp only at h
      split at h
      · cases h
      · injection h with h; subst h
        exact ⟨rest, s.wdata, _, .inr (.inr (.inl rfl))⟩
    | write addr size v =>
      unfold State.access at h
      dsimp only at h
      split at h
      · cases h
      · rcases ((s.withInputs rest).withWdata v).writeCommand_cases v with ⟨e, h'⟩ | ⟨i, hd, hb, ha, h'⟩
        · rw [h'] at h; injection h with h; subst h
          exact ⟨rest, v, s.rdata, .inr (.inr (.inr (.inr (.inl ⟨e, rfl⟩))))⟩
        · rw [h'] at h; injection h with h; subst h
          exact ⟨rest, v, s.rdata, .inr (.inr (.inr (.inr (.inr ⟨i, hd, hb, ha, by cases i <;> rfl⟩))))⟩
      · rename_i off _ hoff
        injection h with h; subst h
        refine ⟨rest, v, s.rdata, .inr (.inr (.inr (.inl ⟨off, v, rfl, ?_⟩)))⟩
        unfold windowOffset at hoff
        split at hoff
        · rename_i hw
          injection hoff with hoff
          rw [hin, ← hoff]
          simp only [State.withInputs_cfg] at hw ⊢
          rw [Nat.add_sub_cancel' hw.2.1, hw.1]; rfl
        · cases hoff

end Sys2Proof.Machine
end

