-- ==== Sys2Proof/Laws/Decode.lean ====
section
/-! SUPPORT. The command word: its fields read back, what the decoder and the operand latch agree on. -/

namespace Sys2Proof

theorem getLsbD_toNat {n : Nat} (x : BitVec n) (k : Nat) : (x.getLsbD k).toNat = x.toNat / 2 ^ k % 2 := by
  rw [BitVec.getLsbD, Nat.testBit_eq_decide_div_mod_eq]
  rcases Nat.mod_two_eq_zero_or_one (x.toNat / 2 ^ k) with h | h <;> simp [h]

theorem CmdFields.toWord_toNat (op : BitVec 4) (f : CmdFields) :
    (f.toWord op).toNat =
      op.toNat + 2 ^ 8 * f.a.toNat + 2 ^ 16 * f.b.toNat + 2 ^ 24 * f.f0.toNat + 2 ^ 25 * f.f1.toNat := by
  have := op.isLt
  have := f.a.isLt
  have := f.b.isLt
  have := f.f0.toNat_le
  have := f.f1.toNat_le
  rw [CmdFields.toWord, BitVec.toNat_ofNat]
  omega

@[simp] theorem opField_toWord (op : BitVec 4) (f : CmdFields) : opField (f.toWord op) = op := by
  apply BitVec.eq_of_toNat_eq
  have := op.isLt
  rw [opField, BitVec.extractLsb'_toNat, f.toWord_toNat, Nat.shiftRight_eq_div_pow]
  omega

@[simp] theorem CmdFields.ofWord_toWord (op : BitVec 4) (f : CmdFields) : CmdFields.ofWord (f.toWord op) = f := by
  have hn := f.toWord_toNat op
  obtain ⟨a, b, f0, f1⟩ := f
  have := op.isLt
  have := a.isLt
  have := b.isLt
  have := f0.toNat_le
  have := f1.toNat_le
  have bool : ∀ x y : Bool, x.toNat = y.toNat → x = y := by decide
  simp only [CmdFields.ofWord, CmdFields.mk.injEq]
  refine ⟨?_, ?_, ?_, ?_⟩
  · apply BitVec.eq_of_toNat_eq; rw [BitVec.extractLsb'_toNat, hn, Nat.shiftRight_eq_div_pow]; dsimp only; omega
  · apply BitVec.eq_of_toNat_eq; rw [BitVec.extractLsb'_toNat, hn, Nat.shiftRight_eq_div_pow]; dsimp only; omega
  · apply bool; rw [getLsbD_toNat, hn]; dsimp only; omega
  · apply bool; rw [getLsbD_toNat, hn]; dsimp only; omega

/-- The A field of SHOW_NUMBER_AT, split into LEN, POS and its two ignored bits, is put together again. -/
theorem packLenPos_fields (a : Byte) : packLenPos (lenField a) (posField a) a = a := by
  have := a.isLt
  apply BitVec.eq_of_toNat_eq
  simp only [packLenPos, lenField, posField, getLsbD_toNat, BitVec.toNat_ofNat]
  omega

theorem lenField_packLenPos {length : Nat} (h : length ≤ 7) (pos : Nat) (r : Byte) :
    lenField (packLenPos length pos r) = length := by
  have := (r.getLsbD 3).toNat_le
  have := (r.getLsbD 7).toNat_le
  simp only [lenField, packLenPos, BitVec.toNat_ofNat]
  omega

theorem posField_packLenPos (length : Nat) {pos : Nat} (h : pos ≤ 7) (r : Byte) :
    posField (packLenPos length pos r) = pos := by
  have := (r.getLsbD 3).toNat_le
  have := (r.getLsbD 7).toNat_le
  simp only [posField, packLenPos, BitVec.toNat_ofNat]
  omega

/-- What an operation the decoder answers says of the fields it was read from. -/
theorem decodeFields_ok {op : BitVec 4} {f : CmdFields} {i : Instr} (h : decodeFields op f = .ok i) :
    i.opcode = op ∧ i.wf = true ∧ i.overlay f = f := by
  have := f.a.isLt
  have := f.b.isLt
  have hp := packLenPos_fields f.a
  have key : ∀ k : Nat, op.toNat = k → op = BitVec.ofNat 4 k := by intro k hk; rw [← hk]; simp
  unfold decodeFields at h
  have hl : lenField f.a ≤ 7 := by unfold lenField; omega
  have hq : posField f.a ≤ 7 := by unfold posField; omega
  split at h <;> cases h
  all_goals rename_i hk
  all_goals refine ⟨(key _ hk).symm, ?_, ?_⟩
  all_goals first
    | rfl
    | (simp only [Instr.overlay, hp]; done)
    | simp [Instr.overlay]
    | (simp only [Instr.wf, decide_eq_true_eq, Bool.and_eq_true]; omega)

/-- The decoder refuses the reserved opcodes alone. -/
theorem decodeFields_error {op : BitVec 4} {f : CmdFields} {e : DecodeError} (h : decodeFields op f = .error e) :
    e = .reservedOpcode op ∧ (op = 0x0#4 ∨ op = 0xE#4 ∨ op = 0xF#4) := by
  have key : ∀ k : Nat, op.toNat = k → op = BitVec.ofNat 4 k := by intro k hk; rw [← hk]; simp
  have hlt : op.toNat < 16 := op.isLt
  unfold decodeFields at h
  split at h <;> try (cases h; done)
  injection h with h
  refine ⟨h.symm, ?_⟩
  have : op.toNat = 0 ∨ op.toNat = 14 ∨ op.toNat = 15 := by interval_cases op.toNat <;> simp_all
  rcases this with h | h | h
  · exact .inl (key _ h)
  · exact .inr (.inl (key _ h))
  · exact .inr (.inr (key _ h))

theorem decode_ok {w : Word} {i : Instr} (h : decode w = .ok i) :
    i.opcode = opField w ∧ i.wf = true ∧ i.overlay (.ofWord w) = .ofWord w := decodeFields_ok h

theorem decode_error {w : Word} {e : DecodeError} (h : decode w = .error e) :
    opField w = 0x0#4 ∨ opField w = 0xE#4 ∨ opField w = 0xF#4 := (decodeFields_error h).2

theorem Instr.opcode_not_reserved (i : Instr) : i.opcode ≠ 0x0#4 ∧ i.opcode ≠ 0xE#4 ∧ i.opcode ≠ 0xF#4 := by
  cases i <;> simp [Instr.opcode]

namespace Machine

@[simp] theorem allowedBeforeInit_iff (op : BitVec 4) :
    allowedBeforeInit op = true ↔ op = 0x5#4 ∨ op = 0xA#4 := by simp [allowedBeforeInit]

/-- A word that decodes leaves exactly R27's latch. -/
theorem State.latchOf_of_decode (s : State) {w : Word} {i : Instr} (h : decode w = .ok i) (hw : s.wdata = w) :
    s.latchOf i = Latch.ofWord w s.value s.frame := by
  obtain ⟨h1, _, h3⟩ := decode_ok h
  simp only [State.latchOf, Latch.ofWord, hw, h1, h3]

/-- The meaning's own micro-steps are the `Expand` of the latch (10_state.md R33). -/
theorem progOf_eq_expand (s : State) {i : Instr} (hw : i.wf = true) : progOf i s = expand s.cfg (s.latchOf i) s.bright := by
  cases i with
  | setBrightness level on =>
    have : level ≤ 255 := by simpa [Instr.wf] using hw
    simp only [progOf, expand, State.latchOf, Instr.opcode, Instr.overlay, BitVec.toNat_ofNat]
    rw [Nat.mod_eq_of_lt (by omega : level < 2 ^ 8)]
  | encodeDigit d =>
    have : d ≤ 255 := by simpa [Instr.wf] using hw
    simp only [progOf, expand, State.latchOf, Instr.opcode, Instr.overlay, BitVec.toNat_ofNat]
    rw [Nat.mod_eq_of_lt (by omega : d < 2 ^ 8)]
  | showNumberAt length pos lz an =>
    have : length ≤ 7 ∧ pos ≤ 7 := by simpa [Instr.wf] using hw
    simp only [progOf, expand, State.latchOf, Instr.opcode, Instr.overlay, lenField_packLenPos this.1,
      posField_packLenPos _ this.2, BitVec.toNat_ofNat]
  | showTime hour minute colon =>
    have : hour ≤ 255 ∧ minute ≤ 255 := by simpa [Instr.wf] using hw
    simp only [progOf, expand, State.latchOf, Instr.opcode, Instr.overlay, BitVec.toNat_ofNat]
    rw [Nat.mod_eq_of_lt (by omega : hour < 2 ^ 8), Nat.mod_eq_of_lt (by omega : minute < 2 ^ 8)]
  | _ => rfl

@[simp] theorem windowOffset_base (c : Config) : windowOffset c c.baseAddr 4 = some 0 := by simp [windowOffset]

/-- A host write to `CMD`, its word put on the write-data lines first. -/
theorem State.access_CMD (s : State) (w : Word) :
    s.access (.write s.cfg.baseAddr 4 w) = (s.withWdata w).writeCommand w := by simp [State.access]

end Machine
end Sys2Proof
end

