-- ==== Sys2Proof/Laws/Sequences.lean ====
section
/-! SUPPORT. What the micro-step sequences do to the pins and which bytes they cache, said once for each sequence and put
together by append (10_state.md R34, R36, R40). -/

namespace Sys2Proof.Machine

/-- The directions a sequence leaves do not depend on the latches. -/
theorem pinsAfter_dir (c d : Dir) (x x' y y' : Bit) (p : List MicroStep) :
    (pinsAfter ⟨c, x⟩ ⟨d, y⟩ p).1.dir = (pinsAfter ⟨c, x'⟩ ⟨d, y'⟩ p).1.dir ∧
    (pinsAfter ⟨c, x⟩ ⟨d, y⟩ p).2.dir = (pinsAfter ⟨c, x'⟩ ⟨d, y'⟩ p).2.dir := by
  induction p generalizing c d x x' y y' with
  | nil => exact ⟨rfl, rfl⟩
  | cons m p ih =>
    rcases m with (_ | _) | (_ | _) | ⟨(_ | _), v⟩ | _ | _ | _ | _ | _ | _ <;> exact ih ..

theorem pinsAfter_append (c d : Pin) (p q : List MicroStep) :
    pinsAfter c d (p ++ q) = pinsAfter (pinsAfter c d p).1 (pinsAfter c d p).2 q := by
  induction p generalizing c d with
  | nil => rfl
  | cons m p ih =>
    rcases m with (_ | _) | (_ | _) | ⟨(_ | _), v⟩ | _ | _ | _ | _ | _ | _ <;> exact ih ..

/-- The discipline of a sequence in two parts, the second from the directions the first leaves. -/
theorem pinDiscipline_append (c d : Dir) (x y : Bit) (p q : List MicroStep) :
    pinDiscipline c d (p ++ q) =
      (pinDiscipline c d p &&
        pinDiscipline (pinsAfter ⟨c, x⟩ ⟨d, y⟩ p).1.dir (pinsAfter ⟨c, x⟩ ⟨d, y⟩ p).2.dir q) := by
  induction p generalizing c d x y with
  | nil => rfl
  | cons m p ih =>
    rcases m with (_ | _) | (_ | _) | ⟨(_ | _), v⟩ | _ | _ | _ | _ | _ | _ <;>
      simp only [List.cons_append, pinDiscipline, pinsAfter, Bool.false_and, Bool.and_assoc]
    all_goals rw [ih]

/-- From two outputs the sequence keeps the discipline, and it ends with both pins outputs at `v`. -/
structure EndsAt (p : List MicroStep) (v : Bit) : Prop where
  discipline : pinDiscipline .output .output p = true
  pins : ∀ x y, pinsAfter (.driven x) (.driven y) p = (.driven v, .driven v)

theorem EndsAt.append {p q : List MicroStep} {v w : Bit} (hp : EndsAt p v) (hq : EndsAt q w) : EndsAt (p ++ q) w where
  discipline := by
    rw [pinDiscipline_append .output .output true true, hp.discipline, Bool.true_and]
    have h := hp.pins true true
    simp only [Pin.driven] at h
    rw [h]
    exact hq.discipline
  pins x y := by rw [pinsAfter_append, hp.pins, hq.pins]

/-- A micro-step that writes a register moves no pin. -/
theorem EndsAt.cons {p : List MicroStep} {v : Bit} {m : MicroStep} (hm : m.writesRegister = true) (hp : EndsAt p v) :
    EndsAt (m :: p) v := by
  cases m <;> first | (cases hm; done) | exact ⟨hp.discipline, hp.pins⟩

theorem startSeq_endsAt : EndsAt startSeq false := ⟨rfl, fun _ _ => rfl⟩

theorem stopSeq_endsAt : EndsAt stopSeq true := ⟨rfl, fun _ _ => rfl⟩

theorem writeByteSeq_endsAt (b : Byte) : EndsAt (writeByteSeq b) false := ⟨rfl, fun _ _ => rfl⟩

theorem writeByteProg_endsAt (b : Byte) : EndsAt (writeByteProg b) false := ⟨rfl, fun _ _ => rfl⟩

theorem sendCommandSeq_endsAt (b : Byte) : EndsAt (sendCommandSeq b) true :=
  (startSeq_endsAt.append (writeByteSeq_endsAt b)).append stopSeq_endsAt

theorem setBrightnessSeq_endsAt (c : Config) (level : Nat) (on : Bit) : EndsAt (setBrightnessSeq c level on) true :=
  .cons rfl (sendCommandSeq_endsAt _)

theorem setSegmentsSeq_endsAt (c : Config) (f : Word) (bright : Byte) : EndsAt (setSegmentsSeq c f bright) true :=
  have w := writeByteSeq_endsAt
  .cons rfl (((sendCommandSeq_endsAt _).append
    ((((((startSeq_endsAt.append (w _)).append (w _)).append (w _)).append (w _)).append (w _)).append
      stopSeq_endsAt)).append (sendCommandSeq_endsAt _))

/-- INITIALIZE keeps the discipline from any pins, and ends with both at 1. -/
theorem initialiseProg_pins (c : Config) (k d : Pin) :
    pinDiscipline k.dir d.dir (initialiseProg c) = true ∧
      pinsAfter k d (initialiseProg c) = (.driven true, .driven true) := by
  have h := (setBrightnessSeq_endsAt c 7 true).append (setSegmentsSeq_endsAt c 0#32 (brightByte c 7 true))
  simp only [initialiseProg, List.cons_append, List.nil_append, pinDiscipline, pinsAfter,
    beq_self_eq_true, Bool.true_and]
  exact ⟨h.discipline, h.pins true true⟩

/-- Every operation that uses the bus and is not INITIALIZE ends at an operation boundary (10_state.md R40). -/
theorem progOf_endsAt {i : Instr} (s : State) (hi : allowedBeforeInit i.opcode = false) : ∃ v, EndsAt (progOf i s) v := by
  cases i
  case initialise => cases hi
  case encodeDigit => cases hi
  case start => exact ⟨_, startSeq_endsAt⟩
  case stop => exact ⟨_, stopSeq_endsAt⟩
  case writeByte b => exact ⟨_, writeByteProg_endsAt b⟩
  case sendCommand b => exact ⟨_, sendCommandSeq_endsAt b⟩
  case setBrightness => exact ⟨_, setBrightnessSeq_endsAt ..⟩
  case setAddress => exact ⟨_, sendCommandSeq_endsAt _⟩
  all_goals exact ⟨_, setSegmentsSeq_endsAt ..⟩

theorem progOf_ne_nil (i : Instr) (s : State) : progOf i s ≠ [] := by
  cases i <;> exact List.cons_ne_nil _ _

/-- Whether a micro-step writes BRIGHT. -/
def MicroStep.setsBright : MicroStep → Bool
  | .setBright _ => true
  | _ => false

/-- A sequence without `SetBright` caches no byte that is not valid. -/
theorem setsValidBright_of_none {c : Config} {p : List MicroStep} (h : p.any MicroStep.setsBright = false) :
    setsValidBright c p := by
  intro m hm v e
  rw [List.any_eq_false] at h
  exact absurd (by rw [e]; rfl) (h m hm)

theorem startSeq_setsNoBright : startSeq.any MicroStep.setsBright = false := rfl

theorem stopSeq_setsNoBright : stopSeq.any MicroStep.setsBright = false := rfl

theorem writeByteSeq_setsNoBright (b : Byte) : (writeByteSeq b).any MicroStep.setsBright = false := rfl

theorem sendCommandSeq_setsNoBright (b : Byte) : (sendCommandSeq b).any MicroStep.setsBright = false := rfl

theorem setSegmentsSeq_setsNoBright (c : Config) (f : Word) (bright : Byte) :
    (setSegmentsSeq c f bright).any MicroStep.setsBright = false := by
  simp [setSegmentsSeq, List.any_append, sendCommandSeq, startSeq_setsNoBright, stopSeq_setsNoBright,
    writeByteSeq_setsNoBright, MicroStep.setsBright]

/-- `BrightByte` is one of the 16 valid values (10_state.md R34). -/
theorem brightByte_valid (c : Config) (level : Nat) (on : Bit) : brightValid c (brightByte c level on) :=
  ⟨⟨min level 7, by omega⟩, by cases on <;> simp [brightByte]⟩

end Sys2Proof.Machine
end

