-- ==== Sys2Proof/Laws/HostProgram.lean ====
section
/-! SUPPORT. Reads of STATUS and the run of a host program to its end (30_encoding.md R81, 70_reset_and_hazards.md R203). -/

namespace Sys2Proof.Machine

/-- Bit 0 of STATUS as it is read is BUSY (10_state.md R25). -/
@[simp] theorem Status.toWord_busy (t : Status) : t.toWord.getLsbD 0 = t.busy := by
  rcases t with ⟨a, b, c, d, e, f, g⟩
  revert a b c d e f g
  decide

@[simp] theorem State.readReg_STATUS (s : State) : s.readReg 0x0C = s.status.toWord := rfl

/-- An engine step keeps BUSY in step with `prog` (10_state.md R21). -/
theorem State.engineStep_busyAgrees {s : State} (h : s.busyAgrees) : s.engineStep.busyAgrees := by
  rcases hp : s.prog with _ | ⟨m, rest⟩
  · rw [State.engineStep_nil hp]; exact h
  · have hb : s.status.busy = true := h.2 (by simp [hp])
    rw [State.engineStep_cons hp]
    cases rest with
    | nil => rw [State.settleBusy_nil (by simp)]; simp [State.busyAgrees]
    | cons => rw [State.settleBusy_of_ne (by simp)]; simp [State.busyAgrees, hb]

/-- The run to the end goes through a step that is neither a reset nor the ending read. -/
theorem State.runToEnd_step {s t : State} (hr : s.inputs.head? ≠ some .reset) (he : s.atEndingRead = false)
    (hs : step s = .next t) (fuel : Nat) : State.runToEnd (fuel + 1) s = State.runToEnd fuel t := by
  simp [State.runToEnd, hr, hs, he]

/-- The run ends with the ending read. -/
theorem State.runToEnd_ended {s t : State} (hr : s.inputs.head? ≠ some .reset) (h : s.ended t) (fuel : Nat) :
    State.runToEnd (fuel + 1) s = some t := by
  simp [State.runToEnd, hr, h.1, h.2]

/-- The lines of a program in two parts. -/
theorem assemblePlainLines_append (base : Nat) (p q : List HostLine) :
    assemblePlainLines base (p ++ q) =
      (assemblePlainLines base p).bind fun a => (assemblePlainLines base q).map fun b => a ++ b := by
  induction p with
  | nil => simp [assemblePlainLines]
  | cons l p ih =>
    simp only [List.cons_append, assemblePlainLines, ih]
    cases l.assemblePlain base <;> cases assemblePlainLines base p <;> cases assemblePlainLines base q <;> simp

end Sys2Proof.Machine
end

