-- ==== Sys2Proof/Laws/PerInstr.lean ====
section
/-! SUPPORT. A statement of every operation as syntax, one lemma per constructor. -/

namespace Sys2Proof.Laws.OpcodeFits

/-- The command word of `i` holds its opcode in bits 3:0, and its reserved bits 31:26 are 0 (30_encoding.md R72). -/
def Statement (i : Instr) : Prop := opField (encode i) = i.opcode ∧ (encode i).toNat < 2 ^ 26

theorem every (i : Instr) : Statement i := by
  refine ⟨opField_toWord _ _, ?_⟩
  have h := (i.overlay .zero).toWord_toNat i.opcode
  have := i.opcode.isLt
  have := (i.overlay .zero).a.isLt
  have := (i.overlay .zero).b.isLt
  have := (i.overlay .zero).f0.toNat_le
  have := (i.overlay .zero).f1.toNat_le
  rw [encode, h]
  omega

theorem start : Statement .start := every _
theorem stop : Statement .stop := every _
theorem writeByte (byte : Byte) : Statement (.writeByte byte) := every _
theorem sendCommand (byte : Byte) : Statement (.sendCommand byte) := every _
theorem initialise : Statement .initialise := every _
theorem setBrightness (level : Nat) (on : Bit) : Statement (.setBrightness level on) := every _
theorem clear : Statement .clear := every _
theorem setAddress (addr : Byte) : Statement (.setAddress addr) := every _
theorem setSegments : Statement .setSegments := every _
theorem encodeDigit (d : Nat) : Statement (.encodeDigit d) := every _
theorem showNumberAt (length pos : Nat) (lz an : Bit) : Statement (.showNumberAt length pos lz an) := every _
theorem showNumber (lz an : Bit) : Statement (.showNumber lz an) := every _
theorem showTime (hour minute : Nat) (colon : Bit) : Statement (.showTime hour minute colon) := every _

end Sys2Proof.Laws.OpcodeFits
end

