-- ==== Sys2Proof/Laws/Wire.lean ====
section
/-! SUPPORT. The bus trace and what the monitor reads from it, in parts (10_state.md R37, 00_scope.md R13). -/

namespace Sys2Proof.Machine

/-- The line levels after a trace, from those before it. -/
def lastLevels : (clk dio : Bit) → List TraceEntry → Bit × Bit
  | c, d, [] => (c, d)
  | _, _, e :: rest => lastLevels e.clk e.dio rest

theorem lastLevels_append (c d : Bit) (l k : List TraceEntry) :
    lastLevels c d (l ++ k) = lastLevels (lastLevels c d l).1 (lastLevels c d l).2 k := by
  induction l generalizing c d with
  | nil => rfl
  | cons e l ih => exact ih ..

/-- The wire events of a trace in two parts, the second from the levels the first leaves. -/
theorem wireEvents_append (c d : Bit) (l k : List TraceEntry) :
    wireEvents c d (l ++ k) = wireEvents c d l ++ wireEvents (lastLevels c d l).1 (lastLevels c d l).2 k := by
  induction l generalizing c d with
  | nil => rfl
  | cons e l ih => simp [wireEvents, lastLevels, ih]

/-- A micro-step appends its bus event to the trace, and nothing if it has none. -/
theorem State.perform_trace (s : State) (m : MicroStep) :
    ∃ new, (s.perform m).trace = s.trace ++ new ∧
      new.map (fun e => e.ev.unsampled) = (m.busEvent false).toList := by
  rcases m with (_ | _) | (_ | _) | ⟨(_ | _), v⟩ | _ | _ | _ | _ | _ | _
  case dirIn.dio =>
    simp only [State.perform, State.record, State.takeDraw]
    split <;> exact ⟨_, rfl, rfl⟩
  case setBright => exact ⟨[], by simp, rfl⟩
  case setFrameOut => exact ⟨[], by simp, rfl⟩
  case setResult => exact ⟨[], by simp, rfl⟩
  case publishAck => exact ⟨[], by simp, rfl⟩
  all_goals exact ⟨_, rfl, rfl⟩

end Sys2Proof.Machine
end

