-- ==== Sys2Proof/Tests/Slice0.lean ====
section
/-! SUPPORT. The model's own tests, with values from the spec's encodings and vectors (30_encoding.md R71, R72, R82;
95_test_vectors.md), and a witness for the hypotheses of each obligation. -/

namespace Sys2Proof.Tests
open Sys2Proof.Machine

/-! ### Well-formedness refuses each operand that does not fit its field (30_encoding.md R80) -/

theorem test_wf_level : (Instr.setBrightness 256 true).wf = false := by decide
theorem test_wf_digit : (Instr.encodeDigit 256).wf = false := by decide
theorem test_wf_length : (Instr.showNumberAt 8 0 true true).wf = false := by decide
theorem test_wf_pos : (Instr.showNumberAt 0 8 true true).wf = false := by decide
theorem test_wf_hour : (Instr.showTime 256 0 true).wf = false := by decide
theorem test_wf_minute : (Instr.showTime 0 256 true).wf = false := by decide
theorem test_assembler_refuses : assemble 0 [.command (.setBrightness 256 true)] = none := by decide

/-! ### Decoding: words written out from R71 and R72, fields [31:26] F1 F0 B A [7:4] OP -/

theorem test_decode_start : decode 0b000000_0_0_00000000_00000000_0000_0001#32 = .ok .start := by decide
theorem test_decode_stop : decode 0b000000_0_0_00000000_00000000_0000_0010#32 = .ok .stop := by decide
theorem test_decode_writeByte : decode 0b000000_0_0_00000000_10100101_0000_0011#32 = .ok (.writeByte 0xA5#8) := by decide
theorem test_decode_sendCommand :
    decode 0b000000_0_0_00000000_01000000_0000_0100#32 = .ok (.sendCommand 0x40#8) := by decide
theorem test_decode_initialise : decode 0b000000_0_0_00000000_00000000_0000_0101#32 = .ok .initialise := by decide
theorem test_decode_setBrightness :
    decode 0b000000_0_1_00000000_11111111_0000_0110#32 = .ok (.setBrightness 255 true) := by decide
theorem test_decode_clear : decode 0b000000_0_0_00000000_00000000_0000_0111#32 = .ok .clear := by decide
theorem test_decode_setAddress :
    decode 0b000000_0_0_00000000_00000101_0000_1000#32 = .ok (.setAddress 5#8) := by decide
theorem test_decode_setSegments : decode 0b000000_0_0_00000000_00000000_0000_1001#32 = .ok .setSegments := by decide
theorem test_decode_encodeDigit :
    decode 0b000000_0_0_00000000_00000111_0000_1010#32 = .ok (.encodeDigit 7) := by decide
theorem test_decode_showNumberAt :
    decode 0b000000_1_0_00000000_0001_0011_0000_1011#32 = .ok (.showNumberAt 3 1 false true) := by decide
theorem test_decode_showNumber :
    decode 0b000000_0_1_00000000_00000000_0000_1100#32 = .ok (.showNumber true false) := by decide
theorem test_decode_showTime :
    decode 0b000000_0_1_00000101_00001001_0000_1101#32 = .ok (.showTime 9 5 true) := by decide

/-- Every ignored bit set (R76). -/
theorem test_decode_ignored_bits : decode 0xFCFF98FB#32 = .ok (.showNumberAt 0 1 false false) := by decide

theorem test_decode_reserved_0 : decode 0x00000000#32 = .error (.reservedOpcode 0x0#4) := by decide
theorem test_decode_reserved_E : decode 0xFFFFFFFE#32 = .error (.reservedOpcode 0xE#4) := by decide
theorem test_decode_reserved_F : decode 0x0000000F#32 = .error (.reservedOpcode 0xF#4) := by decide

/-- R82: `SHOW_TIME 12, 34, 0`. -/
theorem test_encode_showTime : encode (.showTime 12 34 false) = 0x00220C0D#32 := by decide

/-! ### Small states -/

/-- The engine after INITIALIZE, idle, both pins driven to `v`: an operation boundary (10_state.md R40). -/
def idle (v : Bit) : State :=
  { State.reset with status := { Status.zero with init := true }, clk := .driven v, dio := .driven v }

/-- An engine running `p`. -/
def running (p : List MicroStep) : State :=
  { idle true with prog := p, status := { Status.zero with init := true, busy := true } }

/-- A state with one event scheduled. -/
def next (s : State) (e : Event) : State := s.withInputs [e]

/-- What holds of the state an outcome answers. -/
def answers (o : Host.Outcome State Fault Refusal) (f : State → Bool) : Bool :=
  match o with
  | .next t => f t
  | _ => false

/-! ### One step of each operation: what acceptance puts in `prog` -/

theorem test_start : answers (exec .start (idle true)) (fun t => t.status.busy && t.prog.length == 9) = true := by decide

theorem test_start_expansion : startSeq[5]? = some (.drive .dio false) ∧ startSeq[7]? = some (.drive .clk false) := by
  decide

theorem test_stop : answers (exec .stop (idle false)) (fun t => t.status.busy && t.prog.length == 9) = true := by decide

theorem test_stop_expansion : stopSeq[5]? = some (.drive .clk true) ∧ stopSeq[7]? = some (.drive .dio true) := by decide

/-- W-3: the data levels of 0xA5, and then the release of the line to 0 (V-BUS-3, step 68). -/
theorem test_writeByte_levels : (writeByteProg 0xA5#8).filterMap
      (fun m => match m with | .drive .dio v => some v | _ => none) =
    [true, false, true, false, false, true, false, true, false] := by decide

theorem test_writeByte_publishes_last : (writeByteProg 0xA5#8).getLast? = some .publishAck := by decide

/-- R211: 78 micro-steps, 37 of them Waits. -/
theorem test_sendCommand : answers (exec (.sendCommand 0x40#8) (idle true))
    (fun t => t.prog.length == 78 && waitCount t.prog == 37) = true := by decide

/-- V-BUS-3: micro-step 48 drives bit 6 of 0x40, micro-step 64 samples. -/
theorem test_sendCommand_expansion : (sendCommandSeq 0x40#8)[47]? = some (.drive .dio true) ∧
    (sendCommandSeq 0x40#8)[63]? = some .sample := by decide

/-- R130: INIT is set in the acceptance step, in the reset state too. -/
theorem test_initialise : answers (exec .initialise State.reset) (fun t => t.status.init && t.status.busy) = true := by
  decide

theorem test_initialise_expansion : (initialiseProg Config.default).take 7 =
    [.dirOut .clk, .dirOut .dio, .drive .clk true, .wait, .drive .dio true, .wait, .setBright 0x8F#8] := by decide

/-- W-5: a level above 7 is as 7. -/
theorem test_setBrightness : answers (exec (.setBrightness 8 true) (idle true))
    (fun t => t.prog.head? == some (.setBright 0x8F#8)) = true := by decide

/-- V-CTL-1. -/
theorem test_setBrightness_off : brightByte Config.default 5 false = 0x85#8 := by decide

theorem test_clear : answers (exec .clear { idle true with frame := 0xFFFFFFFF#32 })
    (fun t => t.prog.head? == some (.setFrameOut 0#32)) = true := by decide

/-- V-CTL-2: address 5 is sent as address 1. -/
theorem test_setAddress : addressByte Config.default 5#8 = 0xC1#8 := by decide

theorem test_setAddress_prog : answers (exec (.setAddress 5#8) (idle true))
    (fun t => t.prog == sendCommandSeq 0xC1#8) = true := by decide

/-- W-12. -/
theorem test_setSegments : answers (exec .setSegments { idle true with frame := 0x4F5B0600#32 })
    (fun t => t.prog.head? == some (.setFrameOut 0x4F5B0600#32) && t.lat.frame == 0x4F5B0600#32) = true := by decide

/-- W-12: position 0 leads on the bus. -/
theorem test_setSegments_order : frameByte 0x4F5B0600#32 1 = 0x06#8 ∧ frameByte 0x4F5B0600#32 3 = 0x4F#8 := by decide

/-- V-ENC-2: accepted before INITIALIZE. -/
theorem test_encodeDigit : answers (exec (.encodeDigit 3) State.reset)
    (fun t => t.prog == [.setResult 0x4F#8] && !t.status.init) = true := by decide

/-- W-2. -/
theorem test_encodeDigit_blank : glyphOf Config.default 10 = 0x00#8 := by decide

/-- W-9: the value is read with its sign. -/
theorem test_showNumberAt : answers (exec (.showNumberAt 2 0 false true) { idle true with value := 0xFFFFFFFB#32 })
    (fun t => t.prog.head? == some (.setFrameOut 0x00006D40#32)) = true := by decide

/-- W-7, the third example: "_100". -/
theorem test_showNumberAt_field : formatNumber Config.default 100 3 1 false true = 0x3F3F0600#32 := by decide

/-- R160, the example: -12. -/
theorem test_showNumber : answers (exec (.showNumber false true) { idle true with value := 0xFFFFFFF4#32 })
    (fun t => t.prog.head? == some (.setFrameOut 0x5B060040#32)) = true := by decide

/-- W-8. -/
theorem test_showNumber_overflow : formatNumber Config.default 99999 4 0 false true = 0x40404040#32 := by decide

/-- W-11. -/
theorem test_showTime : answers (exec (.showTime 9 5 true) (idle true))
    (fun t => t.prog.head? == some (.setFrameOut 0x6D3FEF3F#32)) = true := by decide

/-- The formatter blanks a tens digit above 9, and keeps the units (42_formatting.md R161). -/
theorem test_showTime_above_99 : (formatTime Config.default 123 0 false).extractLsb' 0 16 = 0x4F00#16 := by decide

/-! ### Acceptance, engine, host port and reset, one step each -/

/-- R181: before INITIALIZE a bus-using word sets ERR_NOINIT alone. -/
theorem test_noinit : answers (State.reset.writeCommand 0x00000001#32) (fun t => t.status.toWord == 0x40#32) = true := by
  decide

/-- R185: a reserved opcode before INITIALIZE sets ERR_ILLEGAL alone. -/
theorem test_illegal : answers (State.reset.writeCommand 0x0000000E#32) (fun t => t.status.toWord == 0x10#32) = true := by
  decide

/-- R185: a reserved opcode while busy sets ERR_BUSY alone. -/
theorem test_busy : answers ((running [.wait]).writeCommand 0x0000000E#32)
    (fun t => t.status.toWord == 0x29#32 && t.prog == [.wait]) = true := by decide

/-- R36: the last micro-step clears BUSY. -/
theorem test_engine_last : (running [.setResult 0x4F#8]).engineStep.status.toWord = 0x08#32 := by decide

/-- W-4, V-BUS-1: a low sample is an acknowledgment. -/
theorem test_publishAck : { running [.publishAck] with ackLatch := false }.engineStep.status.toWord = 0x0E#32 := by decide

/-- R31, R106: a released DIO shows the peer's draw. -/
theorem test_dirIn : ({ running [.dirIn .dio, .wait] with peerDraws := [false] }.engineStep).dioLine = false := by decide

/-- R25: writing 0x20 clears ERR_BUSY and keeps INIT. -/
theorem test_status_w1c : ((⟨false, false, false, true, true, true, false⟩ : Status).writeOneClear 0x20#32).toWord =
    0x18#32 := by decide

/-- R39: BRIGHT at reset, read through the window. -/
theorem test_reset_bright : answers (State.reset.access (.read 0x10 4)) (fun t => t.rdata == 0x8F#32) = true := by decide

theorem test_reset_in_operation : answers (step (next (running [.wait, .wait]) .reset))
    (fun t => t.prog.isEmpty && t.clkLine && t.dioLine && t.status.toWord == 0#32) = true := by decide

/-- The host's write of an opcode-table word is the next thing that runs. -/
theorem test_withFetchWord : step (State.reset.withFetchWord 32 0x0000030A) =
    exec (.encodeDigit 3) (State.reset.withWdata 0x0000030A#32) := by rfl

/-- R203: ENCODE_DIGIT 3 from reset (V-ENC-2) ends with the read after its last line. -/
theorem test_program_end : ((assembleProgram 0 [.command (.encodeDigit 3)]).bind fun e =>
      (State.reset.withInputs e).runToEnd 4).map (fun t => (t.result, t.rdata)) = some (0x4F#8, 0x00#32) := by decide

/-- R203: the state after reset is no program's end, and three steps are not enough for the program above. -/
theorem test_program_not_ended : State.reset.atEndingRead = false ∧
    ((assembleProgram 0 [.command (.encodeDigit 3)]).bind fun e => (State.reset.withInputs e).runToEnd 3) = none := by decide

/-- R36, R37: a pin micro-step leaves its event and the two levels, a register micro-step nothing. -/
theorem test_trace : (running [.drive .dio false, .wait]).engineStep.trace = [⟨.drive .dio false, true, false⟩] ∧
    (running [.setResult 1#8]).engineStep.trace = [] := by decide

/-- R13, R201: a reset after the start condition of START raises DIO with CLK high, a stop condition that closes the transaction; with CLK
alone low it is a clock edge, and it closes nothing. -/
theorem test_reset_wire : wireEvent true false ⟨.reset, true, true⟩ = some .stop ∧
    wireEvent false true ⟨.reset, true, true⟩ = some (.edge true) ∧ wireEvent true true ⟨.reset, true, true⟩ = none ∧
    transactions [.start, .stop] = [[]] ∧ transactions [.start, .edge true] = [] := by decide

/-! ### Witnesses: a state and operands that meet the hypotheses of each obligation -/

theorem witness_DecodeOfEncode : (Instr.showNumberAt 7 7 true true).wf = true ∧ (Instr.showTime 255 255 true).wf = true := by
  decide

theorem witness_EncodeOfDecodeKeepsUsedBits : decode 0xFFFFFFFB#32 = .ok (.showNumberAt 7 7 true true) := by decide

theorem witness_IgnoredBitsPerformSameOperation : opField 0xFC00880B#32 = opField 0x0000000B#32 ∧
    0xFC00880B#32 &&& usedMask (opField 0xFC00880B#32) = 0x0000000B#32 &&& usedMask (opField 0xFC00880B#32) := by decide

theorem witness_AcceptanceStep_accepts : answers ((idle true).writeCMD 0x00000001#32) (fun t => t.prog == startSeq) = true := by
  decide

theorem witness_RejectedOperationSetsItsFlagOnly : (running [.wait]).status.busy = true ∧
    State.reset.status.busy = false ∧ State.reset.status.init = false ∧ Instr.start.opcode ≠ 0x5#4 ∧
    Instr.start.opcode ≠ 0xA#4 := by decide

/-- Each way of `accepts`, for an operation that takes it. -/
theorem witness_EveryOperationIsAccepted : (idle true).accepts (.showNumberAt 7 7 true true) ∧
    State.reset.accepts .initialise ∧ State.reset.accepts (.encodeDigit 255) ∧ (Instr.encodeDigit 255).wf = true := by decide

theorem witness_DefinedSchedulesNeverStop :
    (State.reset.withInputs [.host (.read 0x1C 4), .host (.write 0 4 5#32), .poll, .engine, .reset]).accessesDefined = true := by
  decide

theorem witness_BusTraceIsTheSequence : (idle true).accepts .stop ∧ State.reset.accepts .initialise := by decide

theorem witness_MicroStepEffects (m : MicroStep) : (running [m, .wait]).prog = m :: [.wait] := rfl

theorem witness_OperationEndsAfterItsLength : (running [.wait]).busyAgrees ∧ (idle true).busyAgrees := by decide

theorem witness_OperationLengths : (idle false).accepts .stop ∧ State.reset.accepts .initialise := by decide

/-- And what the statement shuts out: a Drive without a Wait, two Waits, a Wait after a DirOut. -/
theorem witness_EveryTransitionSettles : (idle true).accepts .clear ∧ settles [.drive .clk true, .sample] = false ∧
    settles [.drive .clk true, .wait, .wait] = false ∧ settles [.dirOut .dio, .wait] = false := by decide

theorem witness_OperandWritesWhileBusyAreSafe : (0x0C = 0x04 ∨ 0x0C = 0x08 ∨ 0x0C = 0x0C) ∧
    (running [.publishAck]).writeReg 0x04 1#32 ≠ running [.publishAck] := by decide

/-- Each register of the statement changes in some step. -/
theorem witness_RegistersHaveOneWriter :
    answers (step (running [.setBright 0x80#8])) (fun t => t.bright != 0x8F#8) = true ∧
    answers (step (running [.setFrameOut 1#32])) (fun t => t.frameOut != 0#32) = true ∧
    answers (step (running [.setResult 1#8])) (fun t => t.result != 0#8) = true ∧
    answers (step { running [.publishAck] with ackLatch := false }) (fun t => t.status.ack && t.status.ackValid) = true ∧
    (running [.wait]).inputs.head? ≠ some .reset := by decide

/-- INIT is set by a step, and each error flag is cleared by one. -/
theorem witness_StickyFlags :
    answers (step (next State.reset (.host (.write 0 4 5#32)))) (fun t => t.status.init) = true ∧
    answers (step (next { State.reset with status := { Status.zero with errIllegal := true } } (.host (.write 0x0C 4 0x10#32))))
      (fun t => !t.status.errIllegal) = true ∧
    answers (step (next { State.reset with status := { Status.zero with errBusy := true } } (.host (.write 0x0C 4 0x20#32))))
      (fun t => !t.status.errBusy) = true ∧
    answers (step (next { State.reset with status := { Status.zero with errNoinit := true } } (.host (.write 0x0C 4 0x40#32))))
      (fun t => !t.status.errNoinit) = true := by decide

theorem witness_OperationsNeverOverlap : (running [.wait, .sample]).status.busy = true ∧
    answers (step (running [.wait, .sample])) (fun t => t.prog == [.sample]) = true ∧
    answers (step (next (running [.wait, .sample]) .reset)) (fun t => t.prog == []) = true := by decide

theorem witness_ParametersNeverChange : answers (step (next State.reset .reset)) (fun t => t.cfg == Config.default) = true := by
  decide

/-- Two instances: the defaults, and one with other parameters. -/
theorem witness_InvAtReset : Config.default.wf ∧
    { Config.default with baseAddr := 64, cmdDisplayOn := 0xF8#8, cmdDisplayOff := 0x78#8, indicatorPos := 3 }.wf := by decide

/-- The invariant holds of an idle engine at either boundary, and a step follows it. -/
theorem witness_EveryStepKeepsInv (v : Bit) : (idle v).Inv ∧ ∃ t, step (idle v) = .next t where
  left :=
    { cfgWf := by decide +revert
      busyIff := by decide +revert
      bright := by decide +revert
      brightNext := by intro m hm; cases hm
      discipline := rfl
      boundary := fun _ => ⟨v, rfl, rfl⟩
      released := by intro h; cases h
      ackValid := by intro h; cases h }
  right := ⟨_, rfl⟩

/-- For the effects of START, STOP, WRITE_BYTE, SEND_COMMAND, SET_ADDRESS, SET_BRIGHTNESS and the display writes. -/
theorem witness_ready (v : Bit) : (idle v).busyAgrees ∧ (idle v).ready ∧ atBoundary (idle v).clk (idle v).dio :=
  ⟨by decide +revert, ⟨rfl, rfl⟩, v, rfl, rfl⟩

theorem witness_AckIsOldWhileWriteByteRuns : (idle true).ready ∧ 60 < 61 := by decide

theorem witness_OnlyWriteByteReportsAck : (idle true).accepts .clear ∧ ∀ b, Instr.clear ≠ .writeByte b :=
  ⟨by decide, by intro b h; cases h⟩

theorem witness_PeerReachesAckOnly : (idle true).accepts (.writeByte 0#8) := by decide

theorem witness_SingleByteCommandEffects : Instr.setAddress 5#8 = .setAddress 5#8 ∧
    0xC1#8 = (idle true).cfg.cmdAddr ||| (5#8 &&& 0x03#8) := by decide

/-- Both starting points of INITIALIZE: the reset state and a boundary. -/
theorem witness_InitialiseEffect : (State.reset.busyAgrees ∧ (idle false).busyAgrees) ∧ State.reset.status.busy = false ∧
    (State.reset.clk = .released ∧ State.reset.dio = .released ∧ State.reset.peerDio = true) ∧
    (idle false).status.busy = false ∧ atBoundary (idle false).clk (idle false).dio :=
  ⟨by decide, rfl, ⟨rfl, rfl, rfl⟩, rfl, false, rfl, rfl⟩

/-- Each of the five display writes, with its frame, beside `witness_ready`. -/
theorem witness_EveryDisplayWriteSendsItsFrame :
    formatNumber (idle true).cfg (idle true).value.toInt 2 1 true false = 0x003F3F00#32 ∧
    formatNumber (idle true).cfg (idle true).value.toInt 4 0 false false = 0x3F000000#32 ∧
    formatTime (idle true).cfg 12 34 false = 0x664F5B06#32 ∧ (idle true).frame = 0#32 := by decide

theorem witness_EncodeDigitEffect : State.reset.busyAgrees ∧ State.reset.status.busy = false := by decide

theorem witness_glyphsClear : Config.default.glyphsClear := by decide

theorem witness_cfg_wf : Config.default.wf := by decide

/-- Each clause of FieldClamping, at its boundary. -/
theorem witness_FieldClamping : clampField 4 0 = (4, 0) ∧ clampField 5 0 = (4, 0) ∧ clampField 1 3 = (1, 3) ∧
    clampField 2 3 = (1, 3) ∧ clampField 0 7 = (0, 3) ∧ clampField 7 0 = (4, 0) := by decide

theorem witness_SignAndMagnitude : 0 ≤ s32 0#32 ∧ s32 0xFFFFFFFF#32 < 0 ∧ s32 0x80000000#32 < 0 := by decide

/-- Overflow at its boundary, with a field of each end. -/
theorem witness_OverflowShowsDashes : 3 + 1 ≤ 4 ∧ 10 ^ 1 ≤ 10 ∧ ¬ 10 ^ 1 ≤ 9 ∧ 3 ≤ (3 : Fin 4).val ∧
    (3 : Fin 4).val < 3 + 1 := by decide

theorem witness_EncodeDigitGlyphs : Config.default.glyphsClear ∧ 9 < 10 ∧ 9 < 255 := by decide

theorem witness_WriteByteSendsLowBitFirst : (idle false).ready ∧ (idle false).clk.dir = .output ∧
    (idle false).dio.dir = .output := by decide

/-- Each of the four pairs of line levels before a reset. -/
theorem witness_WireConditionsOfReset :
    let at' (c d : Bit) : State := next { running [.wait] with clk := .driven c, dio := .driven d } .reset
    ∀ c d : Bit, (at' c d).inputs = .reset :: [] ∧ (at' c d).clkLine = c ∧ (at' c d).dioLine = d := by decide

/-- Each way an access is undefined, at a boundary. -/
theorem witness_UndefinedAccessesAreRefused :
    State.reset.access (.read 0x04 2) = .refused (.undefinedAccess 0x04 2) ∧
    State.reset.access (.read 0x20 4) = .refused (.undefinedAccess 0x20 4) ∧
    State.reset.access (.write 0x02 4 0#32) = .refused (.undefinedAccess 0x02 4) ∧
    (State.resetOf { Config.default with baseAddr := 64 }).access (.read 60 4) = .refused (.undefinedAccess 60 4) :=
  ⟨rfl, rfl, rfl, rfl⟩

theorem witness_StepRunsTheDecodedOperation :
    (next State.reset (.host (.write State.reset.cfg.baseAddr 4 0x0000030A#32))).inputs =
      .host (.write State.reset.cfg.baseAddr 4 0x0000030A#32) :: [] ∧
    decode 0x0000030A#32 = .ok (.encodeDigit 3) ∧ decodeTableWord 32 0x0000030A = some (.encodeDigit 3) := by decide

theorem witness_StepTakesTheScheduledTurn : State.reset.inputs = [] ∧ (next State.reset .engine).inputs = .engine :: [] ∧
    (next State.reset (.host (.read 0 4))).inputs = .host (.read 0 4) :: [] ∧ (next State.reset .poll).inputs = .poll :: [] := by
  decide

theorem witness_ResetStepValues : (next (running [.wait]) .reset).inputs = .reset :: [] := by decide

theorem witness_PseudoInstructionsExpand : (next State.reset .poll).inputs = .poll :: [] ∧
    (Instr.setBrightness 255 true).wf = true ∧ ¬ (Instr.setBrightness 256 true).wf = true := by decide

/-- An ending read and what follows it, a program that assembles, and each way a step is no ending read: BUSY, a line still to come. -/
theorem witness_HostProgramsEnd : (∃ t, (next (idle true) .poll).ended t) ∧ (idle true).busyAgrees ∧
    assembleProgram (idle true).cfg.baseAddr [.command .clear] = some [.host (.write 0 4 0x00000007#32), .poll] ∧
    (next (running [.wait]) .poll).atEndingRead = false ∧
    ((idle true).withInputs [.host (.read 0x0C 4), .poll]).atEndingRead = false ∧
    (next (idle true) (.host (.read 0x0C 4))).atEndingRead = true :=
  ⟨⟨_, by decide, rfl⟩, by decide, by decide, by decide, by decide, by decide⟩

end Sys2Proof.Tests
end

section
/-! SUPPORT. The two statements on the scope of the engine: its parameters (00_scope.md R7) and the wires in a reset
(00_scope.md R13, 70_reset_and_hazards.md R201). -/

namespace Sys2Proof.Machine

/-! ### The parameters -/

@[simp] theorem State.atPort_cfg (s : State) (ins : List Event) (wd rd : Word) : (s.atPort ins wd rd).cfg = s.cfg := rfl

@[simp] theorem State.resetStep_cfg (s : State) : s.resetStep.cfg = s.cfg := rfl

@[simp] theorem State.engineStep_cfg (s : State) : s.engineStep.cfg = s.cfg := by
  obtain ⟨-, -, -, hcfg, -⟩ := s.engineStep_hostSide
  exact hcfg

@[simp] theorem State.writeReg_cfg (s : State) (off : Nat) (v : Word) : (s.writeReg off v).cfg = s.cfg := by
  obtain ⟨-, h⟩ | ⟨-, h⟩ | ⟨-, h⟩ | h := s.writeReg_cases off v
  · simp only [h]
  · simp only [h]
  · rw [h, State.writeStatus_cfg]
  · rw [h]

theorem step_cfg {s t : State} (h : step s = .next t) : t.cfg = s.cfg := by
  obtain ⟨ins, wd, rd, rfl | ⟨rfl, -⟩ | rfl | ⟨off, v, rfl, -⟩ | ⟨e, rfl⟩ | ⟨i, -, -, -, rfl⟩⟩ := step_cases h
  · rw [State.engineStep_cfg, State.atPort_cfg]
  · rw [State.resetStep_cfg, State.atPort_cfg]
  · rw [State.atPort_cfg]
  · rw [State.writeReg_cfg, State.atPort_cfg]
  · rw [State.raise_cfg, State.atPort_cfg]
  · rw [State.accept_cfg, State.atPort_cfg]

/-- Settles O18: each of the things a step can do keeps the parameters. -/
theorem parametersNeverChange : Obligations.ParametersNeverChange := fun _ _ h => step_cfg h

/-! ### The wires in a reset -/

theorem step_of_reset {s : State} {rest : List Event} (h : s.inputs = .reset :: rest) :
    step s = .next (s.withInputs rest).resetStep := by
  rw [step, State.turn, h]

theorem State.resetStep_trace (s : State) : s.resetStep.trace = s.trace ++ [⟨.reset, true, true⟩] := rfl

/-- The wire events between two states are those of the entries the later one has appended to the trace. -/
theorem wiresBetween_of_trace {s t : State} {new : List TraceEntry} (h : t.trace = s.trace ++ new) :
    wiresBetween s t = wireEvents s.clkLine s.dioLine new := by
  rw [wiresBetween, newTrace, h, List.drop_left]

/-- Settles O42: a reset appends one entry with both lines at 1, and its wire event follows from the levels before it. -/
theorem wireConditionsOfReset : Obligations.WireConditionsOfReset := by
  intro s rest h
  have hwires : wiresBetween s (s.withInputs rest).resetStep =
      wireEvents s.clkLine s.dioLine [⟨.reset, true, true⟩] :=
    wiresBetween_of_trace (s.withInputs rest).resetStep_trace
  refine ⟨_, step_of_reset h, rfl, rfl, ?stop, ?edge, ?none, ?bothRise⟩ <;>
    (intro hclk hdio; rw [hwires, hclk, hdio]; rfl)

end Sys2Proof.Machine
end

section
/-! SUPPORT. The statements on the state: the machine's invariant, the engine's steps and the writers of its registers, STATUS, the
register window and whose turn it is (10_state.md). -/

namespace Sys2Proof.Machine

/-! ### The writers of the engine's registers, one micro-step -/

/-- BRIGHT has one writer (10_state.md R24). -/
theorem State.perform_bright (s : State) (m : MicroStep) :
    (s.perform m).bright = s.bright ∨ m = .setBright (s.perform m).bright := by
  rcases m with _ | (_ | _) | _ | _ | _ | _ | _ | _ | _ <;> simp

/-- FRAME_OUT has one writer (10_state.md R28). -/
theorem State.perform_frameOut (s : State) (m : MicroStep) :
    (s.perform m).frameOut = s.frameOut ∨ m = .setFrameOut (s.perform m).frameOut := by
  rcases m with _ | (_ | _) | _ | _ | _ | _ | _ | _ | _ <;> simp

/-- RESULT has one writer (10_state.md R29). -/
theorem State.perform_result (s : State) (m : MicroStep) :
    (s.perform m).result = s.result ∨ m = .setResult (s.perform m).result := by
  rcases m with _ | (_ | _) | _ | _ | _ | _ | _ | _ | _ <;> simp

/-- ACK and ACK_VALID have one writer (10_state.md R35). -/
theorem State.perform_ack (s : State) (m : MicroStep) :
    ((s.perform m).status.ack = s.status.ack ∧ (s.perform m).status.ackValid = s.status.ackValid) ∨
      m = .publishAck := by
  rcases m with _ | (_ | _) | _ | _ | _ | _ | _ | _ | _ <;> simp

/-! ### The invariant -/

/-- The fields the invariant speaks of are the same in both states. -/
structure State.SameForInv (s t : State) : Prop where
  cfg : t.cfg = s.cfg
  busy : t.status.busy = s.status.busy
  init : t.status.init = s.status.init
  ack : t.status.ack = s.status.ack
  ackValid : t.status.ackValid = s.status.ackValid
  bright : t.bright = s.bright
  prog : t.prog = s.prog
  clk : t.clk = s.clk
  dio : t.dio = s.dio

theorem State.Inv.of_same {s t : State} (h : s.Inv) (e : s.SameForInv t) : t.Inv where
  cfgWf := by rw [e.cfg]; exact h.cfgWf
  busyIff := by rw [State.busyAgrees, e.busy, e.prog]; exact h.busyIff
  bright := by rw [e.cfg, e.bright]; exact h.bright
  brightNext := by rw [e.cfg, e.prog]; exact h.brightNext
  discipline := by rw [e.clk, e.dio, e.prog]; exact h.discipline
  boundary := by rw [e.init, e.clk, e.dio, e.prog]; exact h.boundary
  released := by rw [e.init, e.clk, e.dio, e.prog]; exact h.released
  ackValid := by rw [e.ack, e.ackValid]; exact h.ackValid

theorem State.atPort_sameForInv (s : State) (ins : List Event) (wd rd : Word) : s.SameForInv (s.atPort ins wd rd) := by
  constructor <;> rfl

theorem State.raise_sameForInv (s : State) (e : CmdError) : s.SameForInv (s.raise e) := by
  constructor <;> simp

theorem State.writeReg_sameForInv (s : State) (off : Nat) (v : Word) : s.SameForInv (s.writeReg off v) := by
  obtain ⟨-, h⟩ | ⟨-, h⟩ | ⟨-, h⟩ | h := s.writeReg_cases off v <;> rw [h] <;> constructor <;> rfl

/-! #### Reset -/

theorem State.resetOf_inv {c : Config} (h : c.wf) : (State.resetOf c).Inv where
  cfgWf := h
  busyIff := by simp [State.busyAgrees, State.resetOf, Status.zero]
  bright := ⟨7, .inr rfl⟩
  brightNext := fun _ hm => nomatch hm
  discipline := rfl
  boundary := fun h => nomatch h
  released := fun _ => ⟨rfl, rfl, fun _ hm => nomatch hm⟩
  ackValid := fun h => nomatch h

theorem Config.default_wf : Config.default.wf := by decide

/-- Settles O19: the state a reset leaves is a literal, read off field by field. -/
theorem invAtReset : Obligations.InvAtReset :=
  ⟨fun _ => State.resetOf_inv, State.resetOf_inv Config.default_wf⟩

theorem State.Inv.resetStep {s : State} (h : s.Inv) : s.resetStep.Inv :=
  (State.resetOf_inv h.cfgWf).of_same (by constructor <;> rfl)

/-! #### The engine step -/

/-- A micro-step moves the pins as `pinsAfter` reads it. -/
theorem State.pinsAfter_perform (s : State) (m : MicroStep) (rest : List MicroStep) :
    pinsAfter (s.perform m).clk (s.perform m).dio rest = pinsAfter s.clk s.dio (m :: rest) := by
  rcases m with (_ | _) | (_ | _) | ⟨(_ | _), _⟩ | _ | _ | _ | _ | _ | _ <;> simp [pinsAfter, State.pin]

/-- The discipline of a sequence goes on after its first micro-step. -/
theorem State.pinDiscipline_perform (s : State) {m : MicroStep} {rest : List MicroStep}
    (h : pinDiscipline s.clk.dir s.dio.dir (m :: rest) = true) :
    pinDiscipline (s.perform m).clk.dir (s.perform m).dio.dir rest = true := by
  rcases m with (_ | _) | (_ | _) | ⟨(_ | _), _⟩ | _ | _ | _ | _ | _ | _
  case dirIn.clk => exact nomatch h
  case drive.clk | drive.dio | sample => exact ((Bool.and_eq_true ..).mp h).2
  case dirIn.dio => simpa [pinDiscipline] using h
  all_goals exact h

/-- A micro-step that writes a register leaves both pins. -/
theorem State.perform_pins_of_writesRegister (s : State) {m : MicroStep} (h : m.writesRegister = true) :
    (s.perform m).clk = s.clk ∧ (s.perform m).dio = s.dio := by
  cases m
  case setBright | setFrameOut | setResult => exact ⟨rfl, rfl⟩
  all_goals simp [MicroStep.writesRegister] at h

theorem State.Inv.engineStep {s : State} (h : s.Inv) : s.engineStep.Inv := by
  rcases hp : s.prog with _ | ⟨m, rest⟩
  · rw [State.engineStep_nil hp]; exact h
  have hstep : s.engineStep = ((s.perform m).withProg rest).settleBusy := by
    rw [State.engineStep_cons hp, State.perform_withProg]
  have hbusy := State.engineStep_busyAgrees h.busyIff
  have hnext := h.brightNext
  have hdisc := h.discipline
  have hbound := h.boundary
  have hrel := h.released
  rw [hp] at hnext hdisc hbound hrel
  rw [hstep] at hbusy ⊢
  refine ⟨?cfgWf, hbusy, ?bright, ?brightNext, ?discipline, ?boundary, ?released, ?ackValid⟩ <;>
    simp only [State.settleBusy_cfg, State.settleBusy_bright, State.settleBusy_prog, State.settleBusy_clk,
      State.settleBusy_dio, State.settleBusy_status, State.withProg_cfg, State.withProg_bright, State.withProg_prog,
      State.withProg_clk, State.withProg_dio, State.withProg_status, State.perform_cfg, State.perform_init]
  case cfgWf => exact h.cfgWf
  case bright =>
    obtain hb | hb := s.perform_bright m
    · rw [hb]; exact h.bright
    · exact hnext m List.mem_cons_self _ hb
  case brightNext => exact fun k hk => hnext k (List.mem_cons_of_mem m hk)
  case discipline => exact s.pinDiscipline_perform hdisc
  case boundary => rw [s.pinsAfter_perform]; exact hbound
  case released =>
    intro hi
    obtain ⟨hclk, hdio, hmoves⟩ := hrel hi
    obtain ⟨hclk', hdio'⟩ := s.perform_pins_of_writesRegister (hmoves m List.mem_cons_self)
    exact ⟨hclk'.trans hclk, hdio'.trans hdio, fun k hk => hmoves k (List.mem_cons_of_mem m hk)⟩
  case ackValid =>
    obtain ⟨hack, hvalid⟩ | rfl := s.perform_ack m
    · rw [hack, hvalid]; exact h.ackValid
    · exact fun _ => rfl

/-! #### The acceptance step -/

/-- Before INITIALIZE, INITIALIZE and ENCODE_DIGIT alone may be accepted (60_exceptions.md R183). -/
theorem Instr.cases_of_allowedBeforeInit {i : Instr} (h : allowedBeforeInit i.opcode = true) :
    i = .initialise ∨ ∃ d, i = .encodeDigit d := by
  cases i
  case initialise => exact .inl rfl
  case encodeDigit d => exact .inr ⟨d, rfl⟩
  all_goals exact nomatch h

theorem setsValidBright_append {c : Config} {p q : List MicroStep} (hp : setsValidBright c p)
    (hq : setsValidBright c q) : setsValidBright c (p ++ q) :=
  List.forall_mem_append.2 ⟨hp, hq⟩

theorem setBrightnessSeq_setsValidBright (c : Config) (level : Nat) (on : Bit) :
    setsValidBright c (setBrightnessSeq c level on) :=
  List.forall_mem_cons.2 ⟨fun _ e => MicroStep.setBright.inj e ▸ brightByte_valid c level on,
    setsValidBright_of_none (sendCommandSeq_setsNoBright _)⟩

/-- No operation caches a byte that is not valid (10_state.md R34). -/
theorem progOf_setsValidBright (i : Instr) (s : State) : setsValidBright s.cfg (progOf i s) := by
  have hsegs (f : Word) (b : Byte) : setsValidBright s.cfg (setSegmentsSeq s.cfg f b) :=
    setsValidBright_of_none (setSegmentsSeq_setsNoBright ..)
  cases i
  case start => exact setsValidBright_of_none startSeq_setsNoBright
  case stop => exact setsValidBright_of_none stopSeq_setsNoBright
  case writeByte b => exact setsValidBright_of_none rfl
  case sendCommand b => exact setsValidBright_of_none (sendCommandSeq_setsNoBright b)
  case initialise =>
    exact setsValidBright_append
      (setsValidBright_append (setsValidBright_of_none rfl) (setBrightnessSeq_setsValidBright s.cfg 7 true)) (hsegs _ _)
  case setBrightness => exact setBrightnessSeq_setsValidBright s.cfg _ _
  case setAddress => exact setsValidBright_of_none (sendCommandSeq_setsNoBright _)
  case encodeDigit => exact setsValidBright_of_none rfl
  all_goals exact hsegs _ _

/-- What an accepted `prog` does to the pins of an idle engine: they are kept to the discipline, and at a boundary in the end if
INIT is then set. -/
theorem State.Inv.progOf_pins {s : State} (h : s.Inv) (hb : s.status.busy = false) {i : Instr}
    (ha : s.status.init = true ∨ allowedBeforeInit i.opcode = true) :
    pinDiscipline s.clk.dir s.dio.dir (progOf i s) = true ∧
      ((s.status.init || i.opcode == 0x5#4) = true →
        atBoundary (pinsAfter s.clk s.dio (progOf i s)).1 (pinsAfter s.clk s.dio (progOf i s)).2) := by
  have hprog : s.prog = [] := by
    by_contra hne
    exact absurd (h.busyIff.2 hne) (by simp [hb])
  have hidle := h.boundary
  rw [hprog] at hidle
  cases hal : allowedBeforeInit i.opcode with
  | true =>
    obtain rfl | ⟨d, rfl⟩ := Instr.cases_of_allowedBeforeInit hal
    · obtain ⟨hdisc, hpins⟩ := initialiseProg_pins s.cfg s.clk s.dio
      exact ⟨hdisc, fun _ => ⟨true, congrArg Prod.fst hpins, congrArg Prod.snd hpins⟩⟩
    · exact ⟨rfl, fun hi => hidle (by simpa [Instr.opcode] using hi)⟩
  | false =>
    have hi : s.status.init = true := by simpa [hal] using ha
    obtain ⟨x, hclk, hdio⟩ : atBoundary s.clk s.dio := hidle hi
    obtain ⟨v, hends⟩ := progOf_endsAt s hal
    rw [hclk, hdio]
    exact ⟨hends.discipline, fun _ => ⟨v, by rw [hends.pins], by rw [hends.pins]⟩⟩

theorem State.Inv.accept {s : State} (h : s.Inv) (hb : s.status.busy = false) {i : Instr}
    (ha : s.status.init = true ∨ allowedBeforeInit i.opcode = true) : (s.accept i (progOf i s)).Inv where
  cfgWf := h.cfgWf
  busyIff := iff_of_true rfl (progOf_ne_nil i s)
  bright := h.bright
  brightNext := progOf_setsValidBright i s
  discipline := (h.progOf_pins hb ha).1
  boundary := (h.progOf_pins hb ha).2
  released := by
    intro hi
    obtain ⟨hs, hop⟩ : s.status.init = false ∧ (i.opcode == 0x5#4) = false := Bool.or_eq_false_iff.1 hi
    obtain ⟨hclk, hdio, -⟩ := h.released hs
    obtain rfl | ⟨d, rfl⟩ := Instr.cases_of_allowedBeforeInit (ha.resolve_left (by simp [hs]))
    · exact nomatch hop
    · exact ⟨hclk, hdio, List.forall_mem_singleton.2 rfl⟩
  ackValid := h.ackValid

theorem progOf_atPort (i : Instr) (s : State) (ins : List Event) (wd rd : Word) :
    progOf i (s.atPort ins wd rd) = progOf i s := by
  cases i <;> rfl

/-- Settles O20: each of the things a step can do keeps the invariant. -/
theorem everyStepKeepsInv : Obligations.EveryStepKeepsInv := by
  intro s t hs hstep
  obtain ⟨ins, wd, rd, hcases⟩ := step_cases hstep
  have hport : (s.atPort ins wd rd).Inv := hs.of_same (s.atPort_sameForInv ins wd rd)
  obtain rfl | ⟨rfl, -⟩ | rfl | ⟨off, v, rfl, -⟩ | ⟨e, rfl⟩ | ⟨i, -, hb, ha, rfl⟩ := hcases
  · exact hport.engineStep
  · exact hport.resetStep
  · exact hport
  · exact hport.of_same (State.writeReg_sameForInv _ off v)
  · exact hport.of_same (State.raise_sameForInv _ e)
  · rw [← progOf_atPort i s ins wd rd]
    exact hport.accept hb ha

/-! ### Runs of engine steps -/

/-- An engine step appends to the trace the bus event of the micro-step it performs. -/
theorem State.engineStep_trace (s : State) :
    ∃ new, s.engineStep.trace = s.trace ++ new ∧
      new.map (fun e => e.ev.unsampled) = (s.prog.take 1).filterMap (MicroStep.busEvent false) := by
  rcases hp : s.prog with _ | ⟨m, rest⟩
  · exact ⟨[], by simp [State.engineStep_nil hp]⟩
  · obtain ⟨new, htrace, hev⟩ := (s.withProg rest).perform_trace m
    refine ⟨new, by rw [State.engineStep_cons hp, State.settleBusy_trace, htrace, State.withProg_trace], ?_⟩
    rw [hev]
    cases hm : m.busEvent false <;> simp [hm]

/-- A run of engine steps appends to the trace the bus events of the micro-steps it performs, in order (10_state.md R37). -/
theorem State.engineRun_trace (n : Nat) (s : State) :
    ∃ new, (State.engineRun n s).trace = s.trace ++ new ∧
      new.map (fun e => e.ev.unsampled) = (s.prog.take n).filterMap (MicroStep.busEvent false) := by
  induction n generalizing s with
  | zero => exact ⟨[], by simp⟩
  | succ n ih =>
    obtain ⟨new, htrace, hev⟩ := s.engineStep_trace
    obtain ⟨more, htrace', hev'⟩ := ih s.engineStep
    refine ⟨new ++ more, by rw [State.engineRun_succ, htrace', htrace, List.append_assoc], ?_⟩
    rw [List.map_append, hev, hev', State.engineStep_prog, Nat.add_comm, List.take_add, List.filterMap_append,
      List.drop_one]

/-- An operation that may be accepted is accepted (60_exceptions.md R181). -/
theorem exec_of_accepts {s : State} {i : Instr} (h : s.accepts i) : exec i s = .next (s.accept i (progOf i s)) :=
  exec_of_ok h.1 (by simpa [allowedBeforeInit] using h.2)

/-- Settles O10: acceptance leaves the trace, and every engine step appends the event of its micro-step. -/
theorem busTraceIsTheSequence : Obligations.BusTraceIsTheSequence := fun s i h =>
  ⟨s.accept i (progOf i s), exec_of_accepts h, rfl, fun n => State.engineRun_trace n _⟩

theorem State.engineRun_prog (n : Nat) (s : State) : (State.engineRun n s).prog = s.prog.drop n := by
  induction n generalizing s with
  | zero => rfl
  | succ n ih => rw [State.engineRun_succ, ih, State.engineStep_prog, List.drop_tail]

theorem State.engineRun_busyAgrees {s : State} (h : s.busyAgrees) (n : Nat) : (State.engineRun n s).busyAgrees := by
  induction n generalizing s with
  | zero => exact h
  | succ n ih => exact ih (State.engineStep_busyAgrees h)

/-- Settles O11: a run drops the micro-steps it performs, and BUSY agrees with what is left. -/
theorem operationEndsAfterItsLength : Obligations.OperationEndsAfterItsLength := by
  intro s h n
  have hprog := State.engineRun_prog n s
  refine ⟨hprog, ?_⟩
  calc (State.engineRun n s).status.busy = true
      ↔ s.prog.drop n ≠ [] := by rw [← hprog]; exact State.engineRun_busyAgrees h n
    _ ↔ n < s.prog.length := by rw [ne_eq, List.drop_eq_nil_iff, not_le]

/-! ### A host write beside the engine -/

/-- The peer's draw as one update: where it comes from, and what is left of the supply (40_bus_protocol.md R106). -/
theorem State.takeDraw_eq (s : State) : s.takeDraw = { s with
    peerDio := s.nextDraw
    peerDraws := s.peerDraws.tail
    drawCount := if s.peerDraws = [] then s.drawCount + 1 else s.drawCount } := by
  rcases hd : s.peerDraws with _ | ⟨d, rest⟩ <;> simp [State.takeDraw, State.nextDraw, hd]

/-- A micro-step neither reads nor writes what a host write to a register other than CMD changes. -/
theorem State.perform_writeReg (s : State) (m : MicroStep) (off : Nat) (v : Word) :
    (s.writeReg off v).perform m = (s.perform m).writeReg off v := by
  unfold State.writeReg
  rcases m with (_ | _) | (_ | _) | ⟨(_ | _), _⟩ | _ | _ | _ | _ | _ | _
  case dirIn.dio => split <;> simp only [State.perform_dirIn_dio, State.takeDraw_eq] <;> rfl
  all_goals split <;> rfl

@[simp] theorem State.writeReg_prog (s : State) (off : Nat) (v : Word) : (s.writeReg off v).prog = s.prog := by
  unfold State.writeReg; split <;> rfl

theorem State.writeReg_withProg (s : State) (off : Nat) (v : Word) (p : List MicroStep) :
    (s.writeReg off v).withProg p = (s.withProg p).writeReg off v := by
  unfold State.writeReg; split <;> rfl

theorem State.writeReg_withBusy (s : State) (off : Nat) (v : Word) (b : Bit) :
    (s.writeReg off v).withBusy b = (s.withBusy b).writeReg off v := by
  unfold State.writeReg; split <;> rfl

theorem State.settleBusy_writeReg (s : State) (off : Nat) (v : Word) :
    (s.writeReg off v).settleBusy = s.settleBusy.writeReg off v := by
  by_cases h : s.prog = []
  · rw [State.settleBusy_nil h, State.settleBusy_nil (by rw [State.writeReg_prog, h]), State.writeReg_withBusy]
  · rw [State.settleBusy_of_ne h, State.settleBusy_of_ne (by rwa [State.writeReg_prog])]

theorem State.engineStep_writeReg (s : State) (off : Nat) (v : Word) :
    (s.writeReg off v).engineStep = s.engineStep.writeReg off v := by
  rcases hp : s.prog with _ | ⟨m, rest⟩
  · rw [State.engineStep_nil hp, State.engineStep_nil (by rw [State.writeReg_prog, hp])]
  · rw [State.engineStep_cons hp, State.engineStep_cons (by rw [State.writeReg_prog, hp]), State.writeReg_withProg,
      State.perform_writeReg, State.settleBusy_writeReg]

theorem State.engineRun_writeReg (n : Nat) (s : State) (off : Nat) (v : Word) :
    State.engineRun n (s.writeReg off v) = (State.engineRun n s).writeReg off v := by
  induction n generalizing s with
  | zero => rfl
  | succ n ih => rw [State.engineRun_succ, State.engineRun_succ, State.engineStep_writeReg, ih]

/-- Settles O14: a host write to a register other than CMD commutes with an engine step, and so with a run of them. -/
theorem operandWritesWhileBusyAreSafe : Obligations.OperandWritesWhileBusyAreSafe :=
  fun s off v n _ => State.engineRun_writeReg n s off v

/-! ### The writers of the engine's registers, one step -/

/-- Each register of the engine is in `t` as in `s`, or the head of `prog` in `s` writes it. -/
structure State.WrittenByHead (s t : State) : Prop where
  bright : t.bright = s.bright ∨ s.prog.head? = some (.setBright t.bright)
  frameOut : t.frameOut = s.frameOut ∨ s.prog.head? = some (.setFrameOut t.frameOut)
  result : t.result = s.result ∨ s.prog.head? = some (.setResult t.result)
  ack : (t.status.ack = s.status.ack ∧ t.status.ackValid = s.status.ackValid) ∨ s.prog.head? = some .publishAck

theorem State.engineStep_writtenByHead (s : State) : s.WrittenByHead s.engineStep := by
  rcases hp : s.prog with _ | ⟨m, rest⟩
  · rw [State.engineStep_nil hp]
    exact ⟨.inl rfl, .inl rfl, .inl rfl, .inl ⟨rfl, rfl⟩⟩
  · rw [State.engineStep_cons hp, State.perform_withProg]
    constructor <;>
      simp only [hp, List.head?_cons, Option.some_inj, State.settleBusy_bright, State.settleBusy_frameOut,
        State.settleBusy_result, State.settleBusy_status, State.withProg_bright, State.withProg_frameOut,
        State.withProg_result, State.withProg_status]
    · exact s.perform_bright m
    · exact s.perform_frameOut m
    · exact s.perform_result m
    · exact s.perform_ack m

/-- A host write to a register other than CMD writes none of the engine's. -/
theorem State.writeReg_writtenByHead (s : State) (off : Nat) (v : Word) : s.WrittenByHead (s.writeReg off v) := by
  obtain ⟨-, h⟩ | ⟨-, h⟩ | ⟨-, h⟩ | h := s.writeReg_cases off v <;> rw [h] <;>
    exact ⟨.inl rfl, .inl rfl, .inl rfl, .inl ⟨rfl, rfl⟩⟩

theorem State.writtenByHead_of_atPort {s t : State} {ins : List Event} {wd rd : Word}
    (h : (s.atPort ins wd rd).WrittenByHead t) : s.WrittenByHead t :=
  ⟨h.bright, h.frameOut, h.result, h.ack⟩

theorem step_writtenByHead {s t : State} (h : step s = .next t) (hr : s.inputs.head? ≠ some .reset) :
    s.WrittenByHead t := by
  obtain ⟨ins, wd, rd, rfl | ⟨-, hreset⟩ | rfl | ⟨off, v, rfl, -⟩ | ⟨e, rfl⟩ | ⟨i, -, -, -, rfl⟩⟩ := step_cases h
  · exact State.writtenByHead_of_atPort (State.engineStep_writtenByHead _)
  · exact absurd hreset hr
  · exact ⟨.inl rfl, .inl rfl, .inl rfl, .inl ⟨rfl, rfl⟩⟩
  · exact State.writtenByHead_of_atPort (State.writeReg_writtenByHead _ off v)
  · exact ⟨.inl rfl, .inl rfl, .inl rfl, .inl ⟨Status.raise_ack _ e, Status.raise_ackValid _ e⟩⟩
  · exact ⟨.inl rfl, .inl rfl, .inl rfl, .inl ⟨rfl, rfl⟩⟩

/-- Only a host write or a reset writes VALUE and FRAME, and no host write to them moves `prog` (10_state.md R26). -/
theorem step_keeps_operands {s t : State} (h : step s = .next t) (hr : s.inputs.head? ≠ some .reset)
    (hp : t.prog ≠ s.prog) : t.value = s.value ∧ t.frame = s.frame := by
  obtain ⟨ins, wd, rd, rfl | ⟨-, hreset⟩ | rfl | ⟨off, v, rfl, -⟩ | ⟨e, rfl⟩ | ⟨i, -, -, -, rfl⟩⟩ := step_cases h
  · obtain ⟨hvalue, hframe, -⟩ := (s.atPort ins wd rd).engineStep_hostSide
    exact ⟨hvalue, hframe⟩
  · exact absurd hreset hr
  · exact ⟨rfl, rfl⟩
  · exact absurd (State.writeReg_prog _ off v) hp
  · exact ⟨rfl, rfl⟩
  · exact ⟨rfl, rfl⟩

/-- Settles O15: a micro-step writes its own register alone, and every other step but a reset writes none of the engine's. -/
theorem registersHaveOneWriter : Obligations.RegistersHaveOneWriter := by
  intro s t h hr
  obtain ⟨hbright, hframeOut, hresult, hack⟩ := step_writtenByHead h hr
  exact ⟨hbright, hframeOut, hresult, hack, step_keeps_operands h hr⟩

/-! ### Sticky flags -/

/-- The sticky flag of an error. -/
def Status.flag (t : Status) : CmdError → Bit
  | .illegal => t.errIllegal
  | .busy => t.errBusy
  | .noinit => t.errNoinit

theorem Status.flag_raise (t : Status) (e e' : CmdError) : (t.raise e').flag e = (t.flag e || e == e') := by
  cases e <;> cases e' <;> simp [Status.flag, Status.raise]

theorem Status.flag_writeOneClear (t : Status) (w : Word) (e : CmdError) :
    (t.writeOneClear w).flag e = (t.flag e && !w.getLsbD e.code) := by
  cases e <;> rfl

theorem State.engineStep_flag (s : State) (e : CmdError) : s.engineStep.status.flag e = s.status.flag e := by
  rcases hp : s.prog with _ | ⟨m, rest⟩
  · rw [State.engineStep_nil hp]
  · have hside := (s.withProg rest).perform_sameHostSide m
    rw [State.engineStep_cons hp, State.settleBusy_status]
    cases e
    · exact hside.errIllegal
    · exact hside.errBusy
    · exact hside.errNoinit

/-- A set error flag stays set, but for a host write to STATUS with the flag's bit 1 and for a reset (10_state.md R25). -/
theorem step_flag (e : CmdError) {s t : State} (h : step s = .next t) (hr : s.inputs.head? ≠ some .reset)
    (hs : s.status.flag e = true) :
    t.status.flag e = true ∨
      ∃ v, s.inputs.head? = some (.host (.write (s.cfg.baseAddr + 0x0C) 4 v)) ∧ v.getLsbD e.code = true := by
  obtain ⟨ins, wd, rd, rfl | ⟨-, hreset⟩ | rfl | ⟨off, v, rfl, hin⟩ | ⟨e', rfl⟩ | ⟨i, -, -, -, rfl⟩⟩ := step_cases h
  · exact .inl ((State.engineStep_flag (s.atPort ins wd rd) e).trans hs)
  · exact absurd hreset hr
  · exact .inl hs
  · obtain ⟨-, hw⟩ | ⟨-, hw⟩ | ⟨rfl, hw⟩ | hw := (s.atPort ins wd rd).writeReg_cases off v <;> rw [hw]
    · exact .inl hs
    · exact .inl hs
    · cases hbit : v.getLsbD e.code
      · refine .inl ?_
        rw [State.writeStatus_status, Status.flag_writeOneClear, hbit, Bool.not_false, Bool.and_true]
        exact hs
      · exact .inr ⟨v, hin, hbit⟩
    · exact .inl hs
  · refine .inl ((Status.flag_raise s.status e e').trans ?_)
    rw [hs, Bool.true_or]
  · cases e <;> exact .inl hs

theorem step_clears_flag (e : CmdError) {s t : State} (h : step s = .next t) (hr : s.inputs.head? ≠ some .reset)
    (hs : s.status.flag e = true) (ht : t.status.flag e = false) :
    ∃ v, s.inputs.head? = some (.host (.write (s.cfg.baseAddr + 0x0C) 4 v)) ∧ v.getLsbD e.code = true :=
  (step_flag e h hr hs).resolve_left (by simp [ht])

@[simp] theorem State.writeReg_init (s : State) (off : Nat) (v : Word) :
    (s.writeReg off v).status.init = s.status.init := by
  unfold State.writeReg; split <;> rfl

theorem Instr.eq_initialise_of_opcode {i : Instr} (h : i.opcode = 0x5#4) : i = .initialise := by
  cases i
  case initialise => rfl
  all_goals simp [Instr.opcode] at h

/-- A step that is no reset leaves INIT, or accepts INITIALIZE and sets it (10_state.md R35). -/
theorem step_init {s t : State} (h : step s = .next t) (hr : s.inputs.head? ≠ some .reset) :
    t.status.init = s.status.init ∨
      (t.status.init = true ∧ t.lat.op = 0x5#4 ∧ t.prog = initialiseProg s.cfg) := by
  obtain ⟨ins, wd, rd, rfl | ⟨-, hreset⟩ | rfl | ⟨off, v, rfl, -⟩ | ⟨e, rfl⟩ | ⟨i, -, -, -, rfl⟩⟩ := step_cases h
  · obtain ⟨-, -, -, -, -, -, -, hinit⟩ := (s.atPort ins wd rd).engineStep_hostSide
    exact .inl hinit
  · exact absurd hreset hr
  · exact .inl rfl
  · exact .inl (State.writeReg_init _ off v)
  · exact .inl (Status.raise_init s.status e)
  · by_cases hop : i.opcode = 0x5#4
    · obtain rfl := Instr.eq_initialise_of_opcode hop
      exact .inr ⟨Bool.or_true s.status.init, rfl, rfl⟩
    · exact .inl (by rw [State.accept_status, beq_false_of_ne hop, Bool.or_false]; rfl)

/-- Settles O16: INIT changes only where INITIALIZE is accepted, and an error flag is lost only in a write to STATUS. -/
theorem stickyFlags : Obligations.StickyFlags := by
  intro s t h hr
  refine ⟨?init, ?sets, step_clears_flag .illegal h hr, step_clears_flag .busy h hr, step_clears_flag .noinit h hr⟩
  case init =>
    intro hs
    obtain hinit | ⟨hinit, -⟩ := step_init h hr
    · rw [hinit, hs]
    · exact hinit
  case sets =>
    intro hs ht
    obtain hinit | ⟨-, hop, hprog⟩ := step_init h hr
    · rw [hinit, hs] at ht
      exact nomatch ht
    · exact ⟨hop, hprog⟩

/-! ### The word of STATUS -/

/-- The fields of STATUS in the order of their bits (10_state.md R25). -/
def Status.bits (t : Status) : List Bit :=
  [t.busy, t.ack, t.ackValid, t.init, t.errIllegal, t.errBusy, t.errNoinit]

theorem Status.toWord_eq_bits (t : Status) : t.toWord = (BitVec.ofBoolListLE t.bits).setWidth 32 := by
  obtain ⟨a, b, c, d, e, f, g⟩ := t
  revert a b c d e f g
  decide

theorem Status.bits_getD_of_le (t : Status) {k : Nat} (h : 7 ≤ k) : t.bits.getD k false = false :=
  List.getD_eq_default _ _ h

theorem Status.toWord_getLsbD (t : Status) (k : Nat) : t.toWord.getLsbD k = t.bits.getD k false := by
  rw [Status.toWord_eq_bits, BitVec.getLsbD_setWidth, BitVec.getLsbD_ofBoolListLE]
  by_cases hk : k < 32
  · simp [hk]
  · rw [t.bits_getD_of_le (by omega), Bool.and_false]

theorem Status.toWord_lt (t : Status) : t.toWord.toNat < 2 ^ 7 := by
  rw [Status.toWord_eq_bits, BitVec.toNat_setWidth]
  exact (Nat.mod_le ..).trans_lt (BitVec.ofBoolListLE t.bits).isLt

theorem Status.toWord_writeOneClear (t : Status) (w : Word) :
    (t.writeOneClear w).toWord = t.toWord &&& ~~~(w &&& 0x00000070#32) := by
  refine BitVec.eq_of_getLsbD_eq fun k hk => ?_
  rw [BitVec.getLsbD_and, Status.toWord_getLsbD, Status.toWord_getLsbD]
  obtain hk7 | hk7 := lt_or_ge k 7
  · interval_cases k <;> simp [Status.bits, Status.writeOneClear]
  · rw [Status.bits_getD_of_le _ hk7, Status.bits_getD_of_le _ hk7, Bool.false_and]

/-- Settles O45: the word is the list of its fields, and the write is read off bit by bit. -/
theorem statusWordLayoutAndClearing : Obligations.StatusWordLayoutAndClearing := by
  intro t w
  have h := t.toWord_getLsbD
  exact ⟨h 0, h 1, h 2, h 3, h 4, h 5, h 6, t.toWord_lt, t.toWord_writeOneClear w⟩

/-! ### The effect of each micro-step -/

theorem State.clkLine_eq (s : State) : s.clkLine = if s.clk.dir = .output then s.clk.lat else true := by
  unfold State.clkLine; cases s.clk.dir <;> rfl

theorem State.dioLine_eq (s : State) : s.dioLine = if s.dio.dir = .output then s.dio.lat else s.peerDio := by
  unfold State.dioLine; cases s.dio.dir <;> rfl

theorem State.record_eq (s : State) (ev : BusEvent) : s.record ev = { s with
    trace := s.trace ++ [⟨ev, if s.clk.dir = .output then s.clk.lat else true,
      if s.dio.dir = .output then s.dio.lat else s.peerDio⟩] } := by
  rw [State.record, State.clkLine_eq, State.dioLine_eq]

theorem State.settleBusy_eq (s : State) : s.settleBusy = s.withBusy (s.status.busy && !s.prog.isEmpty) := by
  rcases hp : s.prog with _ | ⟨m, rest⟩
  · rw [State.settleBusy_nil hp, List.isEmpty_nil, Bool.not_true, Bool.and_false]
  · rw [State.settleBusy_of_ne (by simp [hp]), List.isEmpty_cons, Bool.not_false, Bool.and_true, State.withBusy_self]

/-- The engine step as the micro-step's effect on the state with its head of `prog` removed and BUSY settled. -/
theorem State.engineStep_eq_perform {s : State} {m : MicroStep} {rest : List MicroStep} (h : s.prog = m :: rest) :
    s.engineStep =
      { s with prog := rest, status := { s.status with busy := s.status.busy && !rest.isEmpty } }.perform m := by
  rw [State.engineStep_cons h, State.settleBusy_eq, State.perform_prog, State.perform_busy, ← State.perform_withBusy]
  rfl

/-- Settles O9: each micro-step's effect is that of `perform`, the levels it records being read off the pins. -/
theorem microStepEffects : Obligations.MicroStepEffects := by
  intro s m rest h t u traced sampled
  have ht : t = u.perform m := State.engineStep_eq_perform h
  rw [ht]
  refine ⟨?_, ?_, ?_, ?_, ?_, ?_, ?_, ?_, ?_, ?_, ?_, ?_⟩
  · rintro rfl; exact State.record_eq ..
  · rintro rfl; exact State.record_eq ..
  · rintro rfl; exact State.record_eq ..
  · rintro rfl; rw [State.perform_dirIn_dio, State.takeDraw_eq]; exact State.record_eq ..
  · rintro v rfl; exact State.record_eq ..
  · rintro v rfl; exact State.record_eq ..
  · rintro rfl; exact State.record_eq ..
  · rintro rfl; rw [State.perform_sample, State.dioLine_eq]; exact State.record_eq ..
  · rintro v rfl; rfl
  · rintro f rfl; rfl
  · rintro v rfl; rfl
  · rintro rfl; rfl

/-! ### The register window -/

/-- An aligned 32-bit access at an offset of the window reaches it (20_memory.md R50, R51). -/
theorem windowOffset_add (c : Config) {off : Nat} (hlt : off < 32) (hal : off % 4 = 0) :
    windowOffset c (c.baseAddr + off) 4 = some off := by
  simp [windowOffset, hlt, hal]

theorem State.access_read (s : State) {off : Nat} (hlt : off < 32) (hal : off % 4 = 0) :
    s.access (.read (s.cfg.baseAddr + off) 4) = .next (s.withRdata (s.readReg off)) := by
  simp [State.access, windowOffset_add s.cfg hlt hal]

theorem State.access_write (s : State) {off : Nat} (hlt : off < 32) (hal : off % 4 = 0) (h0 : off ≠ 0) (v : Word) :
    s.access (.write (s.cfg.baseAddr + off) 4 v) = .next ((s.withWdata v).writeReg off v) := by
  simp [State.access, windowOffset_add s.cfg hlt hal]

/-- A byte read as a word has 24 zeros above it (10_state.md R23). -/
theorem setWidth_byte (b : Byte) : b.setWidth 32 = 0#24 ++ b :=
  BitVec.setWidth_eq_append (by decide : 8 ≤ 32)

theorem State.readReg_BRIGHT (s : State) : s.readReg 0x10 = 0#24 ++ s.bright := setWidth_byte s.bright

theorem State.readReg_RESULT (s : State) : s.readReg 0x18 = 0#24 ++ s.result := setWidth_byte s.result

/-- Settles O43: each offset is in the window, and its register reads as the list has it. -/
theorem registerReads : Obligations.RegisterReads := by
  intro s p hp
  have hoff : p.1 < 32 ∧ p.1 % 4 = 0 := by fin_cases hp <;> simp
  have hval : s.readReg p.1 = p.2 := by
    fin_cases hp
    exacts [rfl, rfl, rfl, rfl, s.readReg_BRIGHT, rfl, s.readReg_RESULT, rfl]
  exact hval ▸ s.access_read hoff.1 hoff.2

/-- Settles O44: each offset is in the window and is not CMD's. -/
theorem registerWrites : Obligations.RegisterWrites := by
  intro s v
  refine ⟨s.access_write (by decide) (by decide) (by decide) v, s.access_write (by decide) (by decide) (by decide) v,
    s.access_write (by decide) (by decide) (by decide) v, fun off hoff => ?_⟩
  fin_cases hoff <;> exact s.access_write (by decide) (by decide) (by decide) v

/-! ### Whose turn it is -/

theorem step_of_idle {s : State} (h : s.inputs = []) : step s = .next s.engineStep := by
  rw [step, State.turn, h]

theorem step_of_engine {s : State} {rest : List Event} (h : s.inputs = .engine :: rest) :
    step s = .next (s.withInputs rest).engineStep := by
  rw [step, State.turn, h]

theorem step_of_host {s : State} {a : HostAccess} {rest : List Event} (h : s.inputs = .host a :: rest) :
    step s = (s.withInputs rest).access a := by
  rw [step, State.turn, h]

theorem step_of_poll {s : State} {rest : List Event} (h : s.inputs = .poll :: rest) :
    step s = .next (s.pollOnce rest) := by
  rw [step, State.turn, h]

/-- POLL reads STATUS, and goes on while BUSY is 1 (30_encoding.md R81). -/
theorem State.pollOnce_eq (s : State) (rest : List Event) : s.pollOnce rest = { s with
    rdata := s.status.toWord
    inputs := if s.status.busy = true then .engine :: .poll :: rest else rest } := by
  rw [State.pollOnce, State.readReg_STATUS, Status.toWord_busy]
  rfl

/-- Settles O48: the head of the schedule takes the step. -/
theorem stepTakesTheScheduledTurn : Obligations.StepTakesTheScheduledTurn :=
  ⟨fun _ => step_of_idle, fun _ _ => step_of_engine, fun _ _ _ => step_of_host,
    fun s rest h => by rw [step_of_poll h, s.pollOnce_eq]⟩

/-- Settles O49: a reset step is a literal of the state's fields. -/
theorem resetStepValues : Obligations.ResetStepValues := fun _ _ h => step_of_reset h

end Sys2Proof.Machine
end

section
/-! SUPPORT. The two statements on the host's access to the engine: an operation that runs is not overlaid by another
(20_memory.md R59, 60_exceptions.md R182), and an access outside the rules of the window is refused
(20_memory.md R50, R51). -/

namespace Sys2Proof.Machine

/-! ### No operation over another -/

@[simp] theorem State.writeReg_lat (s : State) (off : Nat) (v : Word) : (s.writeReg off v).lat = s.lat := by
  obtain ⟨-, h⟩ | ⟨-, h⟩ | ⟨-, h⟩ | h := s.writeReg_cases off v
  · rw [h]
  · rw [h]
  · rw [h, State.writeStatus_lat]
  · rw [h]

/-- The engine step keeps the operand latch it works from (10_state.md R27). -/
@[simp] theorem State.engineStep_lat (s : State) : s.engineStep.lat = s.lat := by
  obtain ⟨-, -, hlat, -⟩ := s.engineStep_hostSide
  exact hlat

/-- Settles O17: of the things a step can do, the engine step drops the head of `prog`, a reset empties it, an acceptance needs
BUSY at 0, and the others leave `prog` and the latch. -/
theorem operationsNeverOverlap : Obligations.OperationsNeverOverlap := by
  intro s t h hbusy
  obtain ⟨ins, wd, rd, rfl | ⟨rfl, hreset⟩ | rfl | ⟨off, v, rfl, -⟩ | ⟨e, rfl⟩ | ⟨i, -, hidle, -, -⟩⟩ := step_cases h
  · exact .inl ⟨.inr (State.engineStep_prog _), State.engineStep_lat _⟩
  · exact .inr ⟨hreset, rfl⟩
  · exact .inl ⟨.inl rfl, rfl⟩
  · exact .inl ⟨.inl (State.writeReg_prog _ off v), State.writeReg_lat _ off v⟩
  · exact .inl ⟨.inl rfl, rfl⟩
  · rw [hbusy] at hidle
    exact nomatch hidle

/-! ### Undefined accesses -/

/-- An access reaches no offset exactly when its width, its place or its alignment is wrong (20_memory.md R50, R51). -/
theorem windowOffset_eq_none_iff (c : Config) (addr size : Nat) :
    windowOffset c addr size = none ↔
      size ≠ 4 ∨ addr < c.baseAddr ∨ c.baseAddr + 32 ≤ addr ∨ (addr - c.baseAddr) % 4 ≠ 0 := by
  rw [windowOffset, ite_eq_right_iff]
  simp only [reduceCtorEq, imp_false, not_and_or, not_le, not_lt, ne_eq]

/-- Settles O46: such an access reaches no offset of the window, and there a read and a write answer the same refusal. -/
theorem undefinedAccessesAreRefused : Obligations.UndefinedAccessesAreRefused := by
  intro s addr size v h
  have hnone := (windowOffset_eq_none_iff s.cfg addr size).mpr h
  constructor <;> rw [State.access, hnone]

end Sys2Proof.Machine
end

section
/-! SUPPORT. The statements on the command word and on host programs: the decoder against the encoder, the bits a format ignores,
schedules of defined accesses, and the assembler (30_encoding.md). -/

namespace Sys2Proof

/-! ### The decoder reads back a command word -/

theorem decode_toWord (op : BitVec 4) (f : CmdFields) : decode (f.toWord op) = decodeFields op f := by
  rw [decode, opField_toWord, CmdFields.ofWord_toWord]

/-- The bits a format ignores may hold anything (30_encoding.md R76). -/
theorem decodeFields_overlay {i : Instr} (h : i.wf = true) (raw : CmdFields) :
    decodeFields i.opcode (i.overlay raw) = .ok i := by
  have toNat_ofNat {n : Nat} (hn : n ≤ 255) : (BitVec.ofNat 8 n).toNat = n := Nat.mod_eq_of_lt (by omega)
  cases i with
  | setBrightness level on =>
    have hlevel : level ≤ 255 := by simpa [Instr.wf] using h
    simp [decodeFields, Instr.opcode, Instr.overlay, toNat_ofNat hlevel]
  | encodeDigit d =>
    have hd : d ≤ 255 := by simpa [Instr.wf] using h
    simp [decodeFields, Instr.opcode, Instr.overlay, toNat_ofNat hd]
  | showNumberAt length pos lz an =>
    obtain ⟨hlength, hpos⟩ : length ≤ 7 ∧ pos ≤ 7 := by simpa [Instr.wf] using h
    simp [decodeFields, Instr.opcode, Instr.overlay, lenField_packLenPos hlength, posField_packLenPos _ hpos]
  | showTime hour minute colon =>
    obtain ⟨hhour, hminute⟩ : hour ≤ 255 ∧ minute ≤ 255 := by simpa [Instr.wf] using h
    simp [decodeFields, Instr.opcode, Instr.overlay, toNat_ofNat hhour, toNat_ofNat hminute]
  | _ => rfl

theorem decode_encode {i : Instr} (h : i.wf = true) : decode (encode i) = .ok i := by
  rw [encode, decode_toWord, decodeFields_overlay h]

/-- Settles O1: the fields of the command word are read back, and each format's operands from its fields. -/
theorem decodeOfEncode : Obligations.DecodeOfEncode := fun _ => decode_encode

/-! ### The used bits of a word -/

/-- Two sets of operand fields, bit by bit. -/
def CmdFields.and (f g : CmdFields) : CmdFields := ⟨f.a &&& g.a, f.b &&& g.b, f.f0 && g.f0, f.f1 && g.f1⟩

theorem CmdFields.ofWord_and (w m : Word) :
    CmdFields.ofWord (w &&& m) = (CmdFields.ofWord w).and (CmdFields.ofWord m) := by
  simp [CmdFields.ofWord, CmdFields.and, BitVec.extractLsb'_and]

theorem opField_and (w m : Word) : opField (w &&& m) = opField w &&& opField m := BitVec.extractLsb'_and

theorem opField_usedMask (op : BitVec 4) : opField (usedMask op) = 0xF#4 := by
  revert op
  decide

theorem opField_and_usedMask (w : Word) (op : BitVec 4) : opField (w &&& usedMask op) = opField w := by
  rw [opField_and, opField_usedMask]
  exact BitVec.and_allOnes

/-- Of the A field of SHOW_NUMBER_AT the format uses bits 2:0 and 6:4 (30_encoding.md R71). -/
theorem packLenPos_and (length pos : Nat) (raw : Byte) :
    packLenPos length pos raw &&& 0x77#8 = packLenPos length pos 0#8 := by
  have hfields : ∀ (l p : Fin 8) (b3 b7 : Bool),
      BitVec.ofNat 8 (l.val + 8 * b3.toNat + 16 * p.val + 128 * b7.toNat) &&& 0x77#8 =
        BitVec.ofNat 8 (l.val + 8 * false.toNat + 16 * p.val + 128 * false.toNat) := by decide
  exact hfields ⟨length % 8, Nat.mod_lt _ (by decide)⟩ ⟨pos % 8, Nat.mod_lt _ (by decide)⟩ _ _

/-- The used bits of the fields are the operands, whatever the ignored bits are. -/
theorem Instr.overlay_and_usedMask (i : Instr) (raw : CmdFields) :
    (i.overlay raw).and (CmdFields.ofWord (usedMask i.opcode)) = i.overlay .zero := by
  have hbyte (a : Byte) : a &&& 0xFF#8 = a := BitVec.and_allOnes
  cases i <;>
    simp [Instr.overlay, CmdFields.and, Instr.opcode, usedMask, CmdFields.ofWord, CmdFields.zero, packLenPos_and, hbyte]

/-- The reserved bits [31:26] and [7:4] of a command word (30_encoding.md R72). -/
def reservedField (w : Word) : BitVec 6 × BitVec 4 := (w.extractLsb' 26 6, w.extractLsb' 4 4)

/-- The opcode, the operand fields and the reserved bits are the whole word. -/
theorem toNat_eq_fields (w : Word) :
    w.toNat = (opField w).toNat + 2 ^ 4 * (reservedField w).2.toNat + 2 ^ 8 * (CmdFields.ofWord w).a.toNat +
      2 ^ 16 * (CmdFields.ofWord w).b.toNat + 2 ^ 24 * (CmdFields.ofWord w).f0.toNat +
      2 ^ 25 * (CmdFields.ofWord w).f1.toNat + 2 ^ 26 * (reservedField w).1.toNat := by
  have := w.isLt
  simp only [opField, reservedField, CmdFields.ofWord, BitVec.extractLsb'_toNat, Nat.shiftRight_eq_div_pow, getLsbD_toNat]
  omega

theorem word_eq_of_fields {w w' : Word} (hop : opField w = opField w') (hf : CmdFields.ofWord w = CmdFields.ofWord w')
    (hres : reservedField w = reservedField w') : w = w' :=
  BitVec.eq_of_toNat_eq (by rw [toNat_eq_fields w, toNat_eq_fields w', hop, hf, hres])

theorem reservedField_toWord (op : BitVec 4) (f : CmdFields) : reservedField (f.toWord op) = (0#6, 0#4) := by
  have := op.isLt
  have := f.a.isLt
  have := f.b.isLt
  have := f.f0.toNat_le
  have := f.f1.toNat_le
  refine Prod.ext (BitVec.eq_of_toNat_eq ?_) (BitVec.eq_of_toNat_eq ?_) <;>
    simp only [reservedField, BitVec.extractLsb'_toNat, f.toWord_toNat, Nat.shiftRight_eq_div_pow, BitVec.toNat_ofNat] <;>
    omega

theorem reservedField_and_usedMask (w : Word) (op : BitVec 4) : reservedField (w &&& usedMask op) = (0#6, 0#4) := by
  have hmask : ∀ op, reservedField (usedMask op) = (0#6, 0#4) := by decide
  obtain ⟨hhigh, hlow⟩ := Prod.mk.inj (hmask op)
  rw [reservedField, BitVec.extractLsb'_and, BitVec.extractLsb'_and, hhigh, hlow, BitVec.and_zero, BitVec.and_zero]

theorem encode_of_decode {w : Word} {i : Instr} (h : decode w = .ok i) : encode i = w &&& usedMask (opField w) := by
  obtain ⟨hop, -, hoverlay⟩ := decode_ok h
  refine word_eq_of_fields ?op ?fields ?reserved
  case op => rw [encode, opField_toWord, opField_and_usedMask, hop]
  case fields =>
    rw [encode, CmdFields.ofWord_toWord, ← i.overlay_and_usedMask (.ofWord w), hoverlay, hop, CmdFields.ofWord_and]
  case reserved => rw [encode, reservedField_toWord, reservedField_and_usedMask]

/-- Settles O2: the used bits of the word's fields are the operation's operands over fields that are zero. -/
theorem encodeOfDecodeKeepsUsedBits : Obligations.EncodeOfDecodeKeepsUsedBits := by
  intro w i h
  obtain ⟨-, hwf, -⟩ := decode_ok h
  exact ⟨hwf, encode_of_decode h⟩

/-! ### Words that differ in ignored bits -/

theorem decode_of_reserved {w : Word} (h : opField w = 0x0#4 ∨ opField w = 0xE#4 ∨ opField w = 0xF#4) :
    decode w = .error (.reservedOpcode (opField w)) := by
  rw [decode]
  obtain h | h | h := h <;> rw [h] <;> rfl

/-- The decoder does not see the bits a format ignores (30_encoding.md R76). -/
theorem decode_and_usedMask (w : Word) : decode (w &&& usedMask (opField w)) = decode w := by
  cases h : decode w with
  | ok i =>
    obtain ⟨-, hwf, -⟩ := decode_ok h
    rw [← encode_of_decode h, decode_encode hwf]
  | error e =>
    have hop := opField_and_usedMask w (opField w)
    rw [decode_of_reserved (by rw [hop]; exact decode_error h), hop, ← h, decode_of_reserved (decode_error h)]

namespace Machine

/-- `t'` is `t` but for the word `w'` on the write-data lines and the latch. -/
def State.SameButWord (w' : Word) (t t' : State) : Prop := t' = { t with wdata := w', lat := t'.lat }

theorem State.SameButWord.ite {w' : Word} {t t' u u' : State} (ht : t.SameButWord w' t') (hu : u.SameButWord w' u')
    (c : Prop) [Decidable c] : (if c then t else u).SameButWord w' (if c then t' else u') := by
  split
  · exact ht
  · exact hu

theorem State.raise_withWdata (s : State) (w w' : Word) (e : CmdError) :
    ((s.withWdata w).raise e).SameButWord w' ((s.withWdata w').raise e) := rfl

theorem State.accept_withWdata (s : State) (w w' : Word) (i : Instr) (p : List MicroStep) :
    ((s.withWdata w).accept i p).SameButWord w' ((s.withWdata w').accept i p) := rfl

/-- The acceptance step takes from the write-data lines the latch alone. -/
theorem State.issue_withWdata (s : State) (w w' : Word) (i : Instr) (p : List MicroStep) :
    ((s.withWdata w).issue i p).SameButWord w' ((s.withWdata w').issue i p) :=
  .ite (s.raise_withWdata w w' _) (.ite (s.raise_withWdata w w' _) (s.accept_withWdata w w' i p) _) _

theorem State.rejectReserved_withWdata (s : State) (w w' : Word) :
    (s.withWdata w).rejectReserved.SameButWord w' (s.withWdata w').rejectReserved :=
  .ite (s.raise_withWdata w w' _) (s.raise_withWdata w w' _) _

theorem progOf_withWdata (i : Instr) (s : State) (w : Word) : progOf i (s.withWdata w) = progOf i s := by
  cases i <;> rfl

/-- Settles O4: both words decode as their common used bits do, and the step of what they decode to reads the rest of the word
into the latch alone. -/
theorem ignoredBitsPerformSameOperation : Obligations.IgnoredBitsPerformSameOperation := by
  intro s w w' hop hused
  have hdecode : decode w = decode w' := by
    rw [← decode_and_usedMask w, ← decode_and_usedMask w', hused]
  refine ⟨hdecode, ?_⟩
  rw [State.writeCMD, State.writeCMD, State.access_CMD, State.access_CMD, State.writeCommand, State.writeCommand, ← hdecode]
  cases decode w with
  | ok i =>
    dsimp only
    rw [exec_eq, exec_eq, progOf_withWdata, progOf_withWdata]
    exact ⟨_, _, rfl, rfl, s.issue_withWdata w w' i _⟩
  | error e => exact ⟨_, _, rfl, rfl, s.rejectReserved_withWdata w w'⟩

/-! ### Schedules of defined accesses -/

theorem State.writeCommand_next (s : State) (w : Word) :
    ∃ t, s.writeCommand w = .next t ∧ t.inputs = s.inputs := by
  obtain ⟨e, h⟩ | ⟨i, -, -, -, h⟩ := s.writeCommand_cases w
  · exact ⟨_, h, State.raise_inputs s e⟩
  · exact ⟨_, h, State.accept_inputs s i _⟩

@[simp] theorem State.writeReg_inputs (s : State) (off : Nat) (v : Word) : (s.writeReg off v).inputs = s.inputs := by
  obtain ⟨-, h⟩ | ⟨-, h⟩ | ⟨-, h⟩ | h := s.writeReg_cases off v
  · rw [h]
  · rw [h]
  · rw [h, State.writeStatus_inputs]
  · rw [h]

@[simp] theorem State.engineStep_inputs (s : State) : s.engineStep.inputs = s.inputs := by
  obtain ⟨-, -, -, -, -, -, hinputs, -⟩ := s.engineStep_hostSide
  exact hinputs

/-- Where an access goes, as an offset of the window (20_memory.md R50, R51). -/
def HostAccess.offset (c : Config) : HostAccess → Option Nat
  | .read addr size => windowOffset c addr size
  | .write addr size _ => windowOffset c addr size

theorem State.access_next {s : State} {a : HostAccess} (h : (a.offset s.cfg).isSome = true) :
    ∃ t, s.access a = .next t ∧ t.inputs = s.inputs := by
  obtain ⟨off, hoff⟩ := Option.isSome_iff_exists.1 h
  cases a with
  | read addr size =>
    rw [HostAccess.offset] at hoff
    rw [State.access, hoff]
    exact ⟨_, rfl, rfl⟩
  | write addr size v =>
    rw [HostAccess.offset] at hoff
    rw [State.access, hoff]
    cases off with
    | zero => exact (s.withWdata v).writeCommand_next v
    | succ n => exact ⟨_, rfl, State.writeReg_inputs _ _ v⟩

theorem State.offset_isSome_of_accessesDefined {s : State} (h : s.accessesDefined = true) {a : HostAccess}
    (ha : .host a ∈ s.inputs) : (a.offset s.cfg).isSome = true := by
  have hdefined := List.all_eq_true.1 h (.host a) ha
  cases a <;> exact hdefined

/-- A schedule of defined accesses in a state with the same parameters, every event being one of the first schedule's or an engine
turn. -/
theorem State.accessesDefined_of_inputs {s t : State} (h : s.accessesDefined = true) (hcfg : t.cfg = s.cfg)
    (hin : ∀ e ∈ t.inputs, e ∈ s.inputs ∨ e = .engine) : t.accessesDefined = true := by
  rw [State.accessesDefined, List.all_eq_true] at h ⊢
  intro e he
  rw [hcfg]
  obtain hmem | rfl := hin e he
  · exact h e hmem
  · rfl

/-- A step over defined accesses answers a next state, and schedules nothing new but POLL's engine turn. -/
theorem step_of_accessesDefined {s : State} (h : s.accessesDefined = true) :
    ∃ t, step s = .next t ∧ ∀ e ∈ t.inputs, e ∈ s.inputs ∨ e = .engine := by
  rcases hs : s.inputs with _ | ⟨a | _ | _ | _, rest⟩
  case nil =>
    refine ⟨_, step_of_idle hs, fun e he => .inl ?_⟩
    rwa [State.engineStep_inputs, hs] at he
  case cons.host =>
    have hoffset := State.offset_isSome_of_accessesDefined h (a := a) (by rw [hs]; exact List.mem_cons_self)
    obtain ⟨t, ht, hin⟩ := State.access_next (s := s.withInputs rest) hoffset
    exact ⟨t, (step_of_host hs).trans ht, fun e he => .inl (.tail _ (by rwa [hin] at he))⟩
  case cons.poll =>
    refine ⟨_, step_of_poll hs, fun e he => ?_⟩
    rw [State.pollOnce_eq] at he
    dsimp only at he
    split at he
    · exact (List.mem_cons.1 he).symm
    · exact .inl (.tail _ he)
  case cons.engine => exact ⟨_, step_of_engine hs, fun e he => .inl (.tail _ (by rwa [State.engineStep_inputs] at he))⟩
  case cons.reset => exact ⟨_, step_of_reset hs, fun e he => .inl (.tail _ he)⟩

/-- Settles O8: the step answers a next state, of the same parameters. -/
theorem definedSchedulesNeverStop : Obligations.DefinedSchedulesNeverStop := by
  intro s h
  obtain ⟨t, hstep, hin⟩ := step_of_accessesDefined h
  exact ⟨t, hstep, State.accessesDefined_of_inputs h (step_cfg hstep) hin⟩

end Machine

/-! ### The worked encodings -/

/-- Settles O3: each line is encoded to its word, from which the decoder reads it back. -/
theorem workedEncodings : Obligations.WorkedEncodings := by
  intro p hp
  obtain ⟨hwf, hword⟩ : p.1.wf = true ∧ encode p.1 = p.2 := by
    revert p
    decide
  exact ⟨hword, hword ▸ decode_encode hwf⟩

namespace Machine

/-! ### Host programs -/

theorem assemble_append (base : Nat) (p q : List HostLine) :
    assemble base (p ++ q) = (assemble base p).bind fun a => (assemble base q).map fun b => a ++ b := by
  rw [assemble, List.flatMap_append, assemblePlainLines_append]
  rfl

theorem assemblePlainLines_singleton (base : Nat) (l : HostLine) : assemblePlainLines base [l] = l.assemblePlain base := by
  cases h : l.assemblePlain base <;> simp [assemblePlainLines, h]

theorem assemble_singleton (base : Nat) (l : HostLine) : assemble base [l] = assemblePlainLines base l.expandPseudo := by
  rw [assemble, List.flatMap_singleton]

/-- A line that expands to one plain line assembles to what that line does. -/
theorem assemble_of_expandPseudo {l l' : HostLine} (h : l.expandPseudo = [l']) (base : Nat) :
    assemble base [l] = l'.assemblePlain base := by
  rw [assemble_singleton, h, assemblePlainLines_singleton]

/-- A line that writes an operand register and then issues a command (30_encoding.md R81): SHOW, SHOW_AT and SEGS. -/
theorem assemble_operandCommand {l : HostLine} {r : Reg} {v : Word} {i : Instr}
    (h : l.expandPseudo = [.wr r v, .command i]) (base : Nat) :
    assemble base [l] =
      if i.wf = true then some [.host (.write (base + r.offset) 4 v), .host (.write base 4 (encode i))] else none := by
  rw [assemble_singleton, h, ← List.singleton_append, assemblePlainLines_append, assemblePlainLines_singleton,
    assemblePlainLines_singleton, HostLine.assemblePlain, HostLine.assemblePlain]
  split <;> rfl

/-- POLL is a read of STATUS, after which the loop goes on while bit 0 of the word read is 1 (30_encoding.md R81). -/
theorem step_poll_eq_read {s : State} {rest : List Event} (h : s.inputs = .poll :: rest) :
    ∃ t, s.access (.read (s.cfg.baseAddr + 0x0C) 4) = .next t ∧
      step s = .next { t with inputs := if t.rdata.getLsbD 0 = true then .engine :: .poll :: rest else rest } :=
  ⟨_, s.access_read (by decide) (by decide), step_of_poll h⟩

/-- Settles O50: each line assembles to what it expands to, and a program to its lines' schedules in order. -/
theorem pseudoInstructionsExpand : Obligations.PseudoInstructionsExpand := by
  refine ⟨fun base r v => ⟨?wr, ?rd⟩, fun base i => ?command,
    fun base v length pos lz an => ⟨?poll, ?showValue, ?showValueAt, ?segs, ?clrerr⟩, assemble_append,
    fun s rest => step_poll_eq_read⟩
  case wr | rd | command | poll | clrerr => rw [assemble_of_expandPseudo rfl]; rfl
  case showValue | segs => rw [assemble_operandCommand rfl]; rfl
  case showValueAt =>
    rw [assemble_operandCommand rfl]
    simp [Instr.wf, Reg.offset]

end Machine
end Sys2Proof
end

section
/-! SUPPORT. The statements on the bus protocol (40_bus_protocol.md): what each sequence does to the state, what it puts on the
bus and what the monitor reads from it there, where its Waits stand, and where the peer's answer goes. -/

namespace Sys2Proof.Machine

/-! ### An operation run to its end -/

theorem State.accepts_of_ready {s : State} (h : s.ready) (i : Instr) : s.accepts i := ⟨h.1, .inl h.2⟩

theorem State.prog_eq_nil {s : State} (hagree : s.busyAgrees) (hidle : s.status.busy = false) : s.prog = [] := by
  by_contra hne
  exact absurd (hagree.2 hne) (by simp [hidle])

/-- The idle engine as it begins to perform `i`: the new latch, and what `prog` held aside. -/
def State.begun (s : State) (i : Instr) : State := { s with lat := s.latchOf i, prog := [] }

theorem State.begun_of_busyAgrees {s : State} (hagree : s.busyAgrees) (hidle : s.status.busy = false) (i : Instr) :
    s.begun i = { s with lat := s.latchOf i } := by
  rw [State.begun, ← State.prog_eq_nil hagree hidle]

/-- An operation accepted after INITIALIZE and run to its end is its micro-steps performed. -/
theorem State.complete_accept {s : State} (h : s.ready) (i : Instr) :
    (s.accept i (progOf i s)).complete = (s.begun i).performAll (progOf i s) := by
  obtain ⟨hidle, hinit⟩ := h
  have hbegun : ((s.accept i (progOf i s)).withProg []).withBusy false = s.begun i := by
    simp only [State.accept, State.withProg, State.withBusy, State.begun, hinit, Bool.true_or]
    rw [← hidle, ← hinit]
  rw [State.complete_eq (progOf_ne_nil i s), State.accept_prog, ← State.performAll_withProg, ← State.performAll_withBusy,
    hbegun]

/-! ### The bus trace of a sequence, entry by entry -/

/-- What a micro-step performed in `s` appends to the bus trace (10_state.md R37). -/
def State.entry (s : State) (m : MicroStep) : Option TraceEntry :=
  (m.busEvent s.dioLine).map fun ev => ⟨ev, (s.perform m).clkLine, (s.perform m).dioLine⟩

/-- What a sequence performed from `s` appends to the bus trace. -/
def State.entries : State → List MicroStep → List TraceEntry
  | _, [] => []
  | s, m :: p => (s.entry m).toList ++ (s.perform m).entries p

theorem State.perform_trace_entry (s : State) (m : MicroStep) : (s.perform m).trace = s.trace ++ (s.entry m).toList := by
  rcases m with (_ | _) | (_ | _) | ⟨(_ | _), _⟩ | _ | _ | _ | _ | _ | _
  case dirIn.dio => rw [State.perform_dirIn_dio, State.record_trace, State.takeDraw_trace]; rfl
  case setBright | setFrameOut | setResult | publishAck => exact (List.append_nil _).symm
  all_goals rfl

theorem State.performAll_trace (s : State) (p : List MicroStep) : (s.performAll p).trace = s.trace ++ s.entries p := by
  induction p generalizing s with
  | nil => exact (List.append_nil _).symm
  | cons m p ih => rw [State.performAll_cons, ih, State.perform_trace_entry, List.append_assoc]; rfl

theorem State.entries_append (s : State) (p q : List MicroStep) :
    s.entries (p ++ q) = s.entries p ++ (s.performAll p).entries q := by
  induction p generalizing s with
  | nil => rfl
  | cons m p ih => simp only [List.cons_append, State.entries, ih, State.performAll_cons, List.append_assoc]

/-- A micro-step of which the monitor records nothing leaves both lines. -/
theorem State.perform_lines_of_busEvent_none (s : State) {m : MicroStep} {v : Bit} (h : m.busEvent v = none) :
    (s.perform m).clkLine = s.clkLine ∧ (s.perform m).dioLine = s.dioLine := by
  cases m
  case setBright | setFrameOut | setResult | publishAck => exact ⟨rfl, rfl⟩
  all_goals exact nomatch h

theorem State.lastLevels_entries (s : State) (p : List MicroStep) :
    lastLevels s.clkLine s.dioLine (s.entries p) = ((s.performAll p).clkLine, (s.performAll p).dioLine) := by
  induction p generalizing s with
  | nil => rfl
  | cons m p ih =>
    rw [State.entries, lastLevels_append, State.performAll_cons, ← ih, State.entry]
    cases h : m.busEvent s.dioLine with
    | none =>
      obtain ⟨hclk, hdio⟩ := s.perform_lines_of_busEvent_none h
      rw [hclk, hdio]; rfl
    | some ev => rfl

/-- What the monitor reads on the wires while a sequence is performed from `s`. -/
def State.wires (s : State) (p : List MicroStep) : List WireEvent := wireEvents s.clkLine s.dioLine (s.entries p)

theorem State.wires_append (s : State) (p q : List MicroStep) :
    s.wires (p ++ q) = s.wires p ++ (s.performAll p).wires q := by
  rw [State.wires, State.entries_append, wireEvents_append, State.lastLevels_entries]; rfl

theorem State.wiresBetween_performAll (s : State) (p : List MicroStep) : wiresBetween s (s.performAll p) = s.wires p :=
  wiresBetween_of_trace (s.performAll_trace p)

/-- The wire events of an operation accepted after INITIALIZE and run to its end. -/
theorem State.wiresBetween_complete {s : State} (h : s.ready) (i : Instr) :
    wiresBetween s (s.accept i (progOf i s)).complete = (s.begun i).wires (progOf i s) := by
  rw [State.complete_accept h]
  exact (s.begun i).wiresBetween_performAll _

/-! ### What each sequence does to the state -/

/-- `t` is `s` but for the pins, the sampled level, the peer's levels and the bus trace. -/
def State.SameButBus (s t : State) : Prop := t = { s with
  clk := t.clk, dio := t.dio, trace := t.trace
  ackLatch := t.ackLatch, peerDio := t.peerDio, peerDraws := t.peerDraws, drawCount := t.drawCount }

theorem State.SameButBus.trans {s t u : State} (h : s.SameButBus t) (h' : t.SameButBus u) : s.SameButBus u :=
  Eq.trans h' (by rw [h])

/-- A micro-step that the monitor records changes nothing but the bus. -/
theorem State.perform_sameButBus (s : State) {m : MicroStep} (h : (m.busEvent false).isSome = true) :
    s.SameButBus (s.perform m) := by
  rcases m with (_ | _) | (_ | _) | ⟨(_ | _), _⟩ | _ | _ | _ | _ | _ | _
  case dirIn.dio => rw [State.SameButBus, State.perform_dirIn_dio, State.takeDraw_eq]; rfl
  case setBright | setFrameOut | setResult | publishAck => exact nomatch h
  all_goals rfl

theorem State.performAll_sameButBus (s : State) {p : List MicroStep}
    (h : p.all (fun m => (m.busEvent false).isSome) = true) : s.SameButBus (s.performAll p) := by
  induction p generalizing s with
  | nil => rfl
  | cons m p ih =>
    obtain ⟨hm, hp⟩ := (Bool.and_eq_true ..).mp h
    exact (s.perform_sameButBus hm).trans (ih _ hp)

/-- A sequence moves the pins as `pinsAfter` reads it. -/
theorem State.performAll_pins (s : State) (p : List MicroStep) :
    pinsAfter s.clk s.dio p = ((s.performAll p).clk, (s.performAll p).dio) := by
  induction p generalizing s with
  | nil => rfl
  | cons m p ih => rw [← State.pinsAfter_perform, ih, State.performAll_cons]

theorem State.performAll_clk (s : State) (p : List MicroStep) : (s.performAll p).clk = (pinsAfter s.clk s.dio p).1 := by
  rw [State.performAll_pins]

theorem State.performAll_dio (s : State) (p : List MicroStep) : (s.performAll p).dio = (pinsAfter s.clk s.dio p).2 := by
  rw [State.performAll_pins]

/-- What the peer reaches in a sequence: the level sampled, its own level, and where its levels to come are taken from. -/
def State.peerSide (s : State) : Bit × Bit × List Bit × Nat := (s.ackLatch, s.peerDio, s.peerDraws, s.drawCount)

/-- The same after one acknowledgment slot (40_bus_protocol.md R106), log 2. -/
def State.answered (s : State) : Bit × Bit × List Bit × Nat :=
  (s.nextDraw, s.nextDraw, s.peerDraws.tail, if s.peerDraws = [] then s.drawCount + 1 else s.drawCount)

theorem State.nextDraw_of_peerSide {s t : State} (h : t.peerSide = s.peerSide) : t.nextDraw = s.nextDraw := by
  simp only [State.peerSide, Prod.mk.injEq] at h
  obtain ⟨-, -, hdraws, hcount⟩ := h
  rw [State.nextDraw, State.nextDraw, hdraws, hcount]

theorem State.answered_of_peerSide {s t : State} (h : t.peerSide = s.peerSide) : t.answered = s.answered := by
  rw [State.answered, State.answered, State.nextDraw_of_peerSide h]
  simp only [State.peerSide, Prod.mk.injEq] at h
  obtain ⟨-, -, hdraws, hcount⟩ := h
  rw [hdraws, hcount]

/-- Whether a micro-step may read from the peer. -/
def MicroStep.listens : MicroStep → Bool
  | .dirIn _ => true
  | .sample => true
  | _ => false

theorem State.perform_peerSide (s : State) {m : MicroStep} (h : m.listens = false) :
    (s.perform m).peerSide = s.peerSide := by
  rcases m with (_ | _) | _ | ⟨(_ | _), _⟩ | _ | _ | _ | _ | _ | _
  case dirIn | sample => exact nomatch h
  all_goals rfl

theorem State.performAll_peerSide (s : State) {p : List MicroStep} (h : p.any MicroStep.listens = false) :
    (s.performAll p).peerSide = s.peerSide := by
  induction p generalizing s with
  | nil => rfl
  | cons m p ih =>
    obtain ⟨hm, hp⟩ := (Bool.or_eq_false_iff ..).mp h
    rw [State.performAll_cons, ih _ hp, State.perform_peerSide s hm]

@[simp] theorem State.record_nextDraw (s : State) (ev : BusEvent) : (s.record ev).nextDraw = s.nextDraw := rfl

@[simp] theorem State.setPin_nextDraw (s : State) (p : PinName) (q : Pin) : (s.setPin p q).nextDraw = s.nextDraw := by
  cases p <;> rfl

theorem State.performAll_ackSeq_peerSide (s : State) : (s.performAll ackSeq).peerSide = s.answered := by
  simp [ackSeq, State.peerSide, State.answered, State.dioLine_eq, State.pin]

/-- The bits of a byte, least significant first (40_bus_protocol.md R111). -/
def bitsOf (b : Byte) : List Bit :=
  [b.getLsbD 0, b.getLsbD 1, b.getLsbD 2, b.getLsbD 3, b.getLsbD 4, b.getLsbD 5, b.getLsbD 6, b.getLsbD 7]

theorem writeByteSeq_eq (b : Byte) : writeByteSeq b = (bitsOf b).flatMap bitSeq ++ ackSeq := rfl

theorem State.performAll_writeByteSeq_peerSide (s : State) (b : Byte) :
    (s.performAll (writeByteSeq b)).peerSide = s.answered := by
  rw [writeByteSeq_eq, State.performAll_append, State.performAll_ackSeq_peerSide,
    State.answered_of_peerSide (s.performAll_peerSide rfl)]

/-- A sequence that asks nothing of the peer moves the pins and is recorded, and does nothing else. -/
theorem State.performAll_of_silent (s : State) {p : List MicroStep}
    (hbus : p.all (fun m => (m.busEvent false).isSome) = true) (hsilent : p.any MicroStep.listens = false) :
    s.performAll p = { s with
      clk := (pinsAfter s.clk s.dio p).1, dio := (pinsAfter s.clk s.dio p).2, trace := s.trace ++ s.entries p } := by
  have hpeer := s.performAll_peerSide hsilent
  simp only [State.peerSide, Prod.mk.injEq] at hpeer
  obtain ⟨hack, hlevel, hdraws, hcount⟩ := hpeer
  refine Eq.trans (s.performAll_sameButBus hbus) ?_
  rw [hack, hlevel, hdraws, hcount, State.performAll_clk, State.performAll_dio, State.performAll_trace]

/-- WRITE_BYTE's sequence leaves the draw as the level sampled (40_bus_protocol.md R104, R106). -/
theorem State.performAll_writeByteSeq (s : State) (b : Byte) : s.performAll (writeByteSeq b) = { s with
    clk := ⟨s.clk.dir, false⟩, dio := .driven false, trace := s.trace ++ s.entries (writeByteSeq b)
    ackLatch := s.nextDraw, peerDio := s.nextDraw, peerDraws := s.peerDraws.tail
    drawCount := if s.peerDraws = [] then s.drawCount + 1 else s.drawCount } := by
  have hpeer := s.performAll_writeByteSeq_peerSide b
  simp only [State.peerSide, State.answered, Prod.mk.injEq] at hpeer
  obtain ⟨hack, hlevel, hdraws, hcount⟩ := hpeer
  refine Eq.trans (s.performAll_sameButBus rfl) ?_
  rw [hack, hlevel, hdraws, hcount, State.performAll_clk, State.performAll_dio, State.performAll_trace]
  rfl

/-- A sequence on the bus that leaves two driven pins at `v`. -/
theorem State.performAll_of_endsAt {s : State} {x y v : Bit} {p : List MicroStep}
    (hbus : p.all (fun m => (m.busEvent false).isSome) = true) (hp : EndsAt p v)
    (hclk : s.clk = .driven x) (hdio : s.dio = .driven y) : s.performAll p = { s with
      clk := .driven v, dio := .driven v, trace := s.trace ++ s.entries p
      ackLatch := (s.performAll p).ackLatch, peerDio := (s.performAll p).peerDio
      peerDraws := (s.performAll p).peerDraws, drawCount := (s.performAll p).drawCount } := by
  refine Eq.trans (s.performAll_sameButBus hbus) ?_
  rw [State.performAll_clk, State.performAll_dio, State.performAll_trace, hclk, hdio, hp.pins]

/-! ### The events of each sequence -/

/-- A sequence that samples nothing is recorded as it stands. -/
theorem State.entries_map_ev (s : State) {p : List MicroStep} (h : p.any MicroStep.listens = false) :
    (s.entries p).map TraceEntry.ev = p.filterMap (MicroStep.busEvent false) := by
  induction p generalizing s with
  | nil => rfl
  | cons m p ih =>
    obtain ⟨hm, hp⟩ := (Bool.or_eq_false_iff ..).mp h
    rw [State.entries, List.map_append, ih _ hp]
    cases m
    case dirIn | sample => exact nomatch hm
    all_goals rfl

/-- The acknowledgment slot is recorded with the draw as the value sampled (40_bus_protocol.md R104). -/
theorem State.entries_ackSeq_map_ev (s : State) : (s.entries ackSeq).map TraceEntry.ev =
    [.drive .clk false, .wait, .dirIn .dio, .wait, .drive .clk true, .wait, .sample s.nextDraw, .drive .clk false, .wait,
      .dirOut .dio, .drive .dio false, .wait] := by
  simp [ackSeq, State.entries, State.entry, MicroStep.busEvent, State.dioLine_eq, State.pin]

/-- An operation that asks nothing of the peer, run to its end: the pins moved, its micro-steps on the bus, and nothing else. -/
theorem State.complete_of_silent {s : State} (hagree : s.busyAgrees) (hready : s.ready) (i : Instr)
    (hbus : (progOf i s).all (fun m => (m.busEvent false).isSome) = true)
    (hsilent : (progOf i s).any MicroStep.listens = false) :
    ∃ t tr, exec i s = .next t ∧
      t.complete = { s with
        lat := s.latchOf i, clk := (pinsAfter s.clk s.dio (progOf i s)).1, dio := (pinsAfter s.clk s.dio (progOf i s)).2
        trace := s.trace ++ tr } ∧
      tr.map TraceEntry.ev = (progOf i s).filterMap (MicroStep.busEvent false) := by
  refine ⟨_, { s with lat := s.latchOf i }.entries (progOf i s), exec_of_accepts (State.accepts_of_ready hready i), ?_,
    State.entries_map_ev _ hsilent⟩
  rw [State.complete_accept hready, State.begun_of_busyAgrees hagree hready.1]
  exact State.performAll_of_silent _ hbus hsilent

/-- Settles O21: both sequences ask nothing of the peer. -/
theorem startAndStopEffects : Obligations.StartAndStopEffects :=
  ⟨fun _ hagree hready => State.complete_of_silent hagree hready .start rfl rfl,
    fun _ hagree hready => State.complete_of_silent hagree hready .stop rfl rfl⟩

theorem State.entries_writeByteSeq_map_ev (s : State) (b : Byte) : (s.entries (writeByteSeq b)).map TraceEntry.ev =
    ([0, 1, 2, 3, 4, 5, 6, 7].flatMap fun k =>
        [.drive .clk false, .wait, .drive .dio (b.getLsbD k), .wait, .drive .clk true, .wait]) ++
      [.drive .clk false, .wait, .dirIn .dio, .wait, .drive .clk true, .wait, .sample s.nextDraw, .drive .clk false, .wait,
        .dirOut .dio, .drive .dio false, .wait] := by
  rw [writeByteSeq_eq, State.entries_append, List.map_append, State.entries_map_ev s rfl, State.entries_ackSeq_map_ev,
    State.nextDraw_of_peerSide (s.performAll_peerSide rfl)]
  rfl

/-- Settles O22: the sequence leaves the draw as the level sampled, and PublishAck makes ACK of it. -/
theorem writeByteEffect : Obligations.WriteByteEffect := by
  intro s b hagree hready
  refine ⟨_, { s with lat := s.latchOf (.writeByte b) }.entries (writeByteSeq b),
    exec_of_accepts (State.accepts_of_ready hready _), ?_, State.entries_writeByteSeq_map_ev _ b⟩
  rw [State.complete_accept hready, State.begun_of_busyAgrees hagree hready.1, progOf, writeByteProg, State.performAll_append,
    State.performAll_writeByteSeq]
  rfl

/-! ### What the monitor reads of each sequence -/

@[simp] theorem State.wires_nil (s : State) : s.wires [] = [] := rfl

@[simp] theorem State.wires_cons (s : State) (m : MicroStep) (p : List MicroStep) :
    s.wires (m :: p) = ((s.entry m).bind (wireEvent s.clkLine s.dioLine)).toList ++ (s.perform m).wires p := by
  rw [← List.singleton_append, State.wires_append]
  congr 1
  rw [State.wires, State.entries, State.entries, List.append_nil]
  cases s.entry m with
  | none => rfl
  | some e => simp [wireEvents]

theorem State.wires_startSeq {s : State} {v : Bit} (hclk : s.clk = .driven v) (hdio : s.dio = .driven v) :
    s.wires startSeq = if v then [.start] else [.edge true, .start] := by
  cases v <;> simp [startSeq, State.entry, MicroStep.busEvent, wireEvent, State.clkLine_eq, State.dioLine_eq, State.pin,
    Pin.driven, hclk, hdio]

theorem State.wires_stopSeq {s : State} {v : Bit} (hclk : s.clk = .driven v) (hdio : s.dio = .driven v) :
    s.wires stopSeq = [.edge false, .stop] := by
  cases v <;> simp [stopSeq, State.entry, MicroStep.busEvent, wireEvent, State.clkLine_eq, State.dioLine_eq, State.pin,
    Pin.driven, hclk, hdio]

section OutputPins

variable {s : State} (hclk : s.clk.dir = .output) (hdio : s.dio.dir = .output)
include hclk hdio

theorem State.wires_bitSeq (v : Bit) : s.wires (bitSeq v) = [.edge v] := by
  simp [bitSeq, State.entry, MicroStep.busEvent, wireEvent, State.clkLine_eq, State.dioLine_eq, State.pin, hclk, hdio]

theorem State.wires_ackSeq : s.wires ackSeq = [.edge s.nextDraw] := by
  simp [ackSeq, State.entry, MicroStep.busEvent, wireEvent, State.clkLine_eq, State.dioLine_eq, State.pin, hclk, hdio]

/-- Data bits make a clock edge each, and no other condition (40_bus_protocol.md R107, R112). -/
theorem State.wires_bitSeqs (l : List Bit) : s.wires (l.flatMap bitSeq) = l.map .edge := by
  induction l generalizing s with
  | nil => rfl
  | cons v l ih =>
    have hclk' : (s.performAll (bitSeq v)).clk.dir = .output := by rw [State.performAll_clk]; exact hclk
    have hdio' : (s.performAll (bitSeq v)).dio.dir = .output := by rw [State.performAll_dio]; exact hdio
    rw [List.flatMap_cons, State.wires_append, State.wires_bitSeq hclk hdio, ih hclk' hdio']
    rfl

/-- WRITE_BYTE's nine clock edges: the bits of the byte, least significant first, and the draw (40_bus_protocol.md R107). -/
theorem State.wires_writeByteSeq (b : Byte) : s.wires (writeByteSeq b) = (bitsOf b ++ [s.nextDraw]).map .edge := by
  have hclk' : (s.performAll ((bitsOf b).flatMap bitSeq)).clk.dir = .output := by rw [State.performAll_clk]; exact hclk
  have hdio' : (s.performAll ((bitsOf b).flatMap bitSeq)).dio.dir = .output := by rw [State.performAll_dio]; exact hdio
  rw [writeByteSeq_eq, State.wires_append, State.wires_bitSeqs hclk hdio, State.wires_ackSeq hclk' hdio',
    State.nextDraw_of_peerSide (s.performAll_peerSide rfl), List.map_append]
  rfl

theorem State.wires_writeByteProg (b : Byte) : s.wires (writeByteProg b) = (bitsOf b ++ [s.nextDraw]).map .edge := by
  rw [writeByteProg, State.wires_append, State.wires_writeByteSeq hclk hdio]
  exact List.append_nil _

end OutputPins

theorem edgeBits_map_edge (l : List Bit) : edgeBits (l.map .edge) = l := by
  rw [edgeBits, List.filterMap_map]
  exact List.filterMap_some

/-- Settles O40: the wire events of WRITE_BYTE are its nine edges. -/
theorem writeByteSendsLowBitFirst : Obligations.WriteByteSendsLowBitFirst := by
  intro s b hready hclk hdio
  refine ⟨_, exec_of_accepts (State.accepts_of_ready hready _), ?_⟩
  rw [State.wiresBetween_complete hready, progOf, State.wires_writeByteProg (s := s.begun _) hclk hdio, edgeBits_map_edge]
  rfl

/-- One data bit changes DIO while CLK's latch is 0 (40_bus_protocol.md R112). -/
theorem dioMovesWithClkLow_bitSeq (c d v : Bit) (p : List MicroStep) :
    dioMovesWithClkLow c d (bitSeq v ++ p) = dioMovesWithClkLow true v p := by
  simp [bitSeq, dioMovesWithClkLow]

theorem dioMovesWithClkLow_bitSeqs (c d : Bit) (l : List Bit) :
    dioMovesWithClkLow c d (l.flatMap bitSeq ++ ackSeq) = true := by
  induction l generalizing c d with
  | nil => simp [ackSeq, dioMovesWithClkLow]
  | cons v l ih => rw [List.flatMap_cons, List.append_assoc, dioMovesWithClkLow_bitSeq, ih]

/-- Settles O41: the wire events of each sequence are listed by its lemma. -/
theorem wireConditionsOfSequences : Obligations.WireConditionsOfSequences := by
  refine ⟨fun b clk dio => dioMovesWithClkLow_bitSeqs clk dio (bitsOf b), fun s hready hbound => ?_⟩
  obtain ⟨v, hclk, hdio⟩ := hbound
  have hexec (i : Instr) : exec i s = .next (s.accept i (progOf i s)) := exec_of_accepts (State.accepts_of_ready hready i)
  refine ⟨⟨_, hexec .start, ?_⟩, ⟨_, hexec .stop, ?_⟩, fun b => ⟨_, hexec (.writeByte b), ?_⟩⟩ <;>
    rw [State.wiresBetween_complete hready, progOf]
  · rw [State.wires_startSeq (s := s.begun .start) hclk hdio]
    cases v <;> decide
  · rw [State.wires_stopSeq (s := s.begun .stop) hclk hdio]
    decide
  · rw [State.wires_writeByteProg (s := s.begun (.writeByte b)) (congrArg Pin.dir hclk) (congrArg Pin.dir hdio)]
    simp

/-! ### One transaction of one byte -/

theorem byteOfBits_getLsbD (b : Byte) :
    byteOfBits (b.getLsbD 0) (b.getLsbD 1) (b.getLsbD 2) (b.getLsbD 3) (b.getLsbD 4) (b.getLsbD 5) (b.getLsbD 6)
      (b.getLsbD 7) = b := by
  apply BitVec.eq_of_toNat_eq
  have := b.isLt
  simp only [byteOfBits, getLsbD_toNat, BitVec.toNat_ofNat]
  omega

/-- Nine edges that carry a byte are read as that byte (40_bus_protocol.md R111). -/
theorem bytesOfEdges_bitsOf (b : Byte) (draw : Bit) (rest : List Bit) :
    bytesOfEdges (bitsOf b ++ draw :: rest) = b :: bytesOfEdges rest := by
  simp only [bitsOf, List.cons_append, List.nil_append, bytesOfEdges, byteOfBits_getLsbD]

/-- Edges within a transaction are gathered. -/
theorem transactionsFrom_edges (bits l : List Bit) (rest : List WireEvent) :
    transactionsFrom (some bits) (l.map .edge ++ rest) = transactionsFrom (some (bits ++ l)) rest := by
  induction l generalizing bits with
  | nil => rw [List.append_nil]; rfl
  | cons b l ih => rw [List.map_cons, List.cons_append, transactionsFrom, ih, List.append_assoc]; rfl

/-- From a boundary, START opens a transaction, whatever edge it makes before. -/
theorem transactions_wires_startSeq {s : State} (h : atBoundary s.clk s.dio) (rest : List WireEvent) :
    transactions (s.wires startSeq ++ rest) = transactionsFrom (some []) rest := by
  obtain ⟨v, hclk, hdio⟩ := h
  rw [State.wires_startSeq hclk hdio]
  cases v <;> rfl

theorem State.wires_sendCommandSeq (s : State) (b : Byte) : s.wires (sendCommandSeq b) =
    s.wires startSeq ++ ((s.performAll startSeq).wires (writeByteSeq b) ++
      (s.performAll (startSeq ++ writeByteSeq b)).wires stopSeq) := by
  rw [sendCommandSeq, State.wires_append, State.wires_append, List.append_assoc]

/-- From a boundary, SEND_COMMAND's sequence makes one transaction of its byte (40_bus_protocol.md R108). -/
theorem transactions_wires_sendCommandSeq {s : State} (h : atBoundary s.clk s.dio) (b : Byte) :
    transactions (s.wires (sendCommandSeq b)) = [[b]] := by
  have ⟨v, hclk, hdio⟩ := h
  have hstart : ((s.performAll startSeq).clk, (s.performAll startSeq).dio) = (.driven false, .driven false) := by
    rw [← State.performAll_pins, hclk, hdio, startSeq_endsAt.pins]
  have hbyte : ((s.performAll (startSeq ++ writeByteSeq b)).clk, (s.performAll (startSeq ++ writeByteSeq b)).dio) =
      (.driven false, .driven false) := by
    rw [← State.performAll_pins, hclk, hdio, (startSeq_endsAt.append (writeByteSeq_endsAt b)).pins]
  obtain ⟨hclkStart, hdioStart⟩ := Prod.mk.inj hstart
  obtain ⟨hclkByte, hdioByte⟩ := Prod.mk.inj hbyte
  rw [State.wires_sendCommandSeq, transactions_wires_startSeq h,
    State.wires_writeByteSeq (congrArg Pin.dir hclkStart) (congrArg Pin.dir hdioStart), transactionsFrom_edges,
    State.wires_stopSeq hclkByte hdioByte]
  simp only [transactionsFrom, List.nil_append, List.append_assoc, List.singleton_append, bytesOfEdges_bitsOf]
  rfl

/-- Settles O26: both commands are SEND_COMMAND's sequence of their byte. -/
theorem singleByteCommandEffects : Obligations.SingleByteCommandEffects := by
  intro s i c hi hagree hready hbound
  have hprog : progOf i s = sendCommandSeq c := by
    obtain rfl | ⟨a, rfl, rfl⟩ := hi <;> rfl
  have ⟨v, hclk, hdio⟩ := hbound
  refine ⟨_, _, { s with lat := s.latchOf i }.entries (sendCommandSeq c),
    exec_of_accepts (State.accepts_of_ready hready i), rfl, ?_, ?_⟩
  · rw [State.complete_accept hready, State.begun_of_busyAgrees hagree hready.1, hprog]
    exact State.performAll_of_endsAt rfl (sendCommandSeq_endsAt c) hclk hdio
  · rw [State.wiresBetween_complete hready, hprog]
    exact transactions_wires_sendCommandSeq (s := s.begun i) hbound c

/-! ### Only WRITE_BYTE publishes the acknowledgment -/

theorem publishAck_not_mem_startSeq : .publishAck ∉ startSeq := by decide

theorem publishAck_not_mem_stopSeq : .publishAck ∉ stopSeq := by decide

theorem publishAck_not_mem_writeByteSeq (b : Byte) : .publishAck ∉ writeByteSeq b := by
  simp [writeByteSeq_eq, bitSeq, ackSeq]

theorem publishAck_not_mem_sendCommandSeq (b : Byte) : .publishAck ∉ sendCommandSeq b := by
  simp [sendCommandSeq, publishAck_not_mem_startSeq, publishAck_not_mem_writeByteSeq, publishAck_not_mem_stopSeq]

theorem publishAck_not_mem_setBrightnessSeq (c : Config) (level : Nat) (on : Bit) :
    .publishAck ∉ setBrightnessSeq c level on := by
  simp [setBrightnessSeq, publishAck_not_mem_sendCommandSeq]

theorem publishAck_not_mem_setSegmentsSeq (c : Config) (f : Word) (bright : Byte) :
    .publishAck ∉ setSegmentsSeq c f bright := by
  simp [setSegmentsSeq, publishAck_not_mem_startSeq, publishAck_not_mem_writeByteSeq, publishAck_not_mem_stopSeq,
    publishAck_not_mem_sendCommandSeq]

/-- No operation but WRITE_BYTE has a PublishAck among its micro-steps (40_bus_protocol.md R113). -/
theorem publishAck_not_mem_progOf {i : Instr} (h : ∀ b, i ≠ .writeByte b) (s : State) : .publishAck ∉ progOf i s := by
  cases i
  case writeByte b => exact absurd rfl (h b)
  case start => exact publishAck_not_mem_startSeq
  case stop => exact publishAck_not_mem_stopSeq
  case sendCommand => exact publishAck_not_mem_sendCommandSeq _
  case setAddress => exact publishAck_not_mem_sendCommandSeq _
  case setBrightness => exact publishAck_not_mem_setBrightnessSeq _ _ _
  case encodeDigit => simp [progOf, encodeDigitProg]
  case initialise =>
    simp [progOf, initialiseProg, publishAck_not_mem_setBrightnessSeq, publishAck_not_mem_setSegmentsSeq]
  all_goals exact publishAck_not_mem_setSegmentsSeq _ _ _

/-- A run without PublishAck leaves the acknowledgment. -/
theorem State.engineRun_ack {s : State} (h : .publishAck ∉ s.prog) (n : Nat) :
    (State.engineRun n s).status.ack = s.status.ack ∧ (State.engineRun n s).status.ackValid = s.status.ackValid := by
  induction n generalizing s with
  | zero => exact ⟨rfl, rfl⟩
  | succ n ih =>
    have htail : .publishAck ∉ s.engineStep.prog := by
      rw [State.engineStep_prog]; exact fun hm => h (List.mem_of_mem_tail hm)
    obtain ⟨hack, hvalid⟩ := s.engineStep_writtenByHead.ack.resolve_right fun hp => h (List.mem_of_head? hp)
    obtain ⟨hack', hvalid'⟩ := ih htail
    exact ⟨hack'.trans hack, hvalid'.trans hvalid⟩

/-- Settles O24: the operation has no PublishAck, and a run drops the micro-steps it performs. -/
theorem onlyWriteByteReportsAck : Obligations.OnlyWriteByteReportsAck := by
  intro s i haccepts hi
  refine ⟨_, exec_of_accepts haccepts, fun n => ?_⟩
  obtain ⟨hack, hvalid⟩ := State.engineRun_ack (s := s.accept i (progOf i s)) (publishAck_not_mem_progOf hi s) n
  exact ⟨hack, hvalid, State.engineRun_prog n _⟩

/-! ### Where the peer's answer goes -/

/-- `t` is `s` but for ACK, the sampled level, the peer's levels and the bus trace. -/
def State.SameButPeer (s t : State) : Prop := t = { s with
  ackLatch := t.ackLatch, status := { s.status with ack := t.status.ack }
  peerDio := t.peerDio, peerDraws := t.peerDraws, drawCount := t.drawCount, trace := t.trace }

theorem State.SameButPeer.perform {s t : State} (h : s.SameButPeer t) (m : MicroStep) :
    (s.perform m).SameButPeer (t.perform m) := by
  rw [h]
  rcases m with (_ | _) | (_ | _) | ⟨(_ | _), _⟩ | _ | _ | _ | _ | _ | _
  case dirIn.dio => simp only [State.perform_dirIn_dio, State.takeDraw_eq]; rfl
  all_goals rfl

theorem State.SameButPeer.prog {s t : State} (h : s.SameButPeer t) : t.prog = s.prog := by rw [h]

theorem State.SameButPeer.engineStep {s t : State} (h : s.SameButPeer t) : s.engineStep.SameButPeer t.engineStep := by
  rcases hp : s.prog with _ | ⟨m, rest⟩
  · rw [State.engineStep_nil hp, State.engineStep_nil (h.prog.trans hp)]; exact h
  · rw [State.engineStep_eq_perform hp, State.engineStep_eq_perform (h.prog.trans hp)]
    refine State.SameButPeer.perform ?_ m
    rw [h]; rfl

theorem State.SameButPeer.engineRun {s t : State} (h : s.SameButPeer t) (n : Nat) :
    (State.engineRun n s).SameButPeer (State.engineRun n t) := by
  induction n generalizing s t with
  | zero => exact h
  | succ n ih => exact ih h.engineStep

/-- The values sampled aside, a run appends the same events to two traces when `prog` is the same. -/
theorem State.engineRun_trace_unsampled {s t : State} (hprog : t.prog = s.prog) (htrace : t.trace = s.trace) (n : Nat) :
    (State.engineRun n t).trace.map (fun e => e.ev.unsampled) =
      (State.engineRun n s).trace.map (fun e => e.ev.unsampled) := by
  obtain ⟨new, h, hev⟩ := State.engineRun_trace n s
  obtain ⟨new', h', hev'⟩ := State.engineRun_trace n t
  rw [h, h', htrace, List.map_append, List.map_append, hev, hev', hprog]

theorem progOf_peer (i : Instr) (s : State) (level : Bit) (draws : List Bit) (count : Nat) :
    progOf i { s with peerDio := level, peerDraws := draws, drawCount := count } = progOf i s := by
  cases i <;> rfl

/-- Settles O25: each micro-step keeps two states the same but for the peer's side, and both runs record the same `prog`. -/
theorem peerReachesAckOnly : Obligations.PeerReachesAckOnly := by
  intro s i level draws count haccepts
  have hstart : (s.accept i (progOf i s)).SameButPeer
      (State.accept { s with peerDio := level, peerDraws := draws, drawCount := count } i (progOf i s)) := rfl
  have hevents : (fun e : TraceEntry => match e.ev with | .sample _ => BusEvent.sample false | ev => ev) =
      fun e => e.ev.unsampled := by
    funext e
    cases e.ev <;> rfl
  refine ⟨_, _, exec_of_accepts haccepts, exec_of_accepts haccepts, fun n => ?_⟩
  rw [progOf_peer]
  refine ⟨hstart.engineRun n, ?_⟩
  have htrace := State.engineRun_trace_unsampled hstart.prog rfl n
  rw [← hevents] at htrace
  exact htrace

/-! ### Where the Waits stand, and their length -/

/-- The Waits of a sequence stand where 40_bus_protocol.md R110 puts them, and it does not begin with one. -/
structure Settled (p : List MicroStep) : Prop where
  settles : settles p = true
  head : p.head? ≠ some .wait

theorem settles_append {p q : List MicroStep} (hp : settles p = true) (hq : Settled q) : settles (p ++ q) = true := by
  induction p with
  | nil => exact hq.settles
  | cons m p ih =>
    cases p with
    | nil =>
      have hhead : (q.head? == some .wait) = false := by simpa using hq.head
      cases m <;> simp_all [settles, MicroStep.needsWait, hq.settles]
    | cons k p =>
      obtain ⟨hm, hrest⟩ := (Bool.and_eq_true ..).mp hp
      exact (Bool.and_eq_true ..).mpr ⟨hm, ih hrest⟩

theorem Settled.append {p q : List MicroStep} (hp : Settled p) (hq : Settled q) : Settled (p ++ q) where
  settles := settles_append hp.settles hq
  head := by
    cases p with
    | nil => exact hq.head
    | cons => exact hp.head

theorem startSeq_settled : Settled startSeq := ⟨rfl, by decide⟩

theorem stopSeq_settled : Settled stopSeq := ⟨rfl, by decide⟩

theorem writeByteSeq_settled (b : Byte) : Settled (writeByteSeq b) := ⟨rfl, by simp [writeByteSeq, bitSeq]⟩

theorem sendCommandSeq_settled (b : Byte) : Settled (sendCommandSeq b) :=
  (startSeq_settled.append (writeByteSeq_settled b)).append stopSeq_settled

theorem setBrightnessSeq_settled (c : Config) (level : Nat) (on : Bit) : Settled (setBrightnessSeq c level on) :=
  .append (p := [_]) ⟨rfl, by simp⟩ (sendCommandSeq_settled _)

theorem setSegmentsSeq_settled (c : Config) (f : Word) (bright : Byte) : Settled (setSegmentsSeq c f bright) :=
  have w := writeByteSeq_settled
  .append (p := [_]) ⟨rfl, by simp⟩ (((sendCommandSeq_settled _).append
    ((((((startSeq_settled.append (w _)).append (w _)).append (w _)).append (w _)).append (w _)).append
      stopSeq_settled)).append (sendCommandSeq_settled _))

theorem initialiseProg_settled (c : Config) : Settled (initialiseProg c) :=
  .append (.append ⟨rfl, by decide⟩ (setBrightnessSeq_settled ..)) (setSegmentsSeq_settled ..)

theorem progOf_settled (i : Instr) (s : State) : Settled (progOf i s) := by
  cases i
  case start => exact startSeq_settled
  case stop => exact stopSeq_settled
  case writeByte b => exact (writeByteSeq_settled b).append ⟨rfl, by decide⟩
  case sendCommand | setAddress => exact sendCommandSeq_settled _
  case initialise => exact initialiseProg_settled _
  case setBrightness => exact setBrightnessSeq_settled ..
  case encodeDigit => exact ⟨rfl, by simp [progOf, encodeDigitProg]⟩
  all_goals exact setSegmentsSeq_settled ..

/-- The parameters replaced. -/
def State.withCfg (s : State) (c : Config) : State := { s with cfg := c }

theorem State.perform_withCfg (s : State) (c : Config) (m : MicroStep) :
    (s.withCfg c).perform m = (s.perform m).withCfg c := by
  rcases m with (_ | _) | (_ | _) | ⟨(_ | _), _⟩ | _ | _ | _ | _ | _ | _
  case dirIn.dio => simp only [State.perform_dirIn_dio, State.takeDraw_eq]; rfl
  all_goals rfl

theorem State.engineStep_withCfg (s : State) (c : Config) : (s.withCfg c).engineStep = s.engineStep.withCfg c := by
  rcases hp : s.prog with _ | ⟨m, rest⟩
  · rw [State.engineStep_nil hp, State.engineStep_nil (s := s.withCfg c) hp]
  · rw [State.engineStep_eq_perform hp, State.engineStep_eq_perform (s := s.withCfg c) hp, ← State.perform_withCfg]
    rfl

/-- The engine's steps do not read the parameters: they are in the micro-steps already. -/
theorem State.engineRun_withCfg (n : Nat) (s : State) (c : Config) :
    State.engineRun n (s.withCfg c) = (State.engineRun n s).withCfg c := by
  induction n generalizing s with
  | zero => rfl
  | succ n ih => rw [State.engineRun_succ, State.engineRun_succ, State.engineStep_withCfg, ih]

theorem fillDigits_bitDelay (c : Config) (delay : Nat) (lz : Bit) (P n : Nat) (first : Bool) (mag : Nat) (p : Vector Byte 4) :
    fillDigits { c with bitDelay := delay } lz P n first mag p = fillDigits c lz P n first mag p := by
  induction n generalizing first mag p with
  | zero => rfl
  | succ n ih => rw [fillDigits, fillDigits, ih, ih]; rfl

theorem formatNumber_bitDelay (c : Config) (delay : Nat) (v : Int) (length pos : Nat) (lz an : Bit) :
    formatNumber { c with bitDelay := delay } v length pos lz an = formatNumber c v length pos lz an := by
  rw [formatNumber, formatNumber, formatField, formatField, fillDigits_bitDelay]

/-- No expansion reads BIT_DELAY. -/
theorem progOf_bitDelay (i : Instr) (s : State) (delay : Nat) :
    progOf i (s.withCfg { s.cfg with bitDelay := delay }) = progOf i s := by
  have hnumber := formatNumber_bitDelay s.cfg delay (s32 s.value)
  cases i
  case showNumberAt length pos lz an => exact congrArg (setSegmentsSeq s.cfg · s.bright) (hnumber length pos lz an)
  case showNumber lz an => exact congrArg (setSegmentsSeq s.cfg · s.bright) (hnumber 4 0 lz an)
  all_goals rfl

/-- Settles O13: the sequences put together keep the Waits where they stand, no expansion reads BIT_DELAY and no engine step reads
a parameter. -/
theorem everyTransitionSettles : Obligations.EveryTransitionSettles := by
  intro s i delay haccepts
  have hexec := exec_of_accepts (s := s.withCfg { s.cfg with bitDelay := delay }) haccepts
  rw [progOf_bitDelay] at hexec
  exact ⟨_, exec_of_accepts haccepts, (progOf_settled i s).settles, hexec, fun n => State.engineRun_withCfg n _ _⟩

end Sys2Proof.Machine
end

section
/-! SUPPORT. The statements on display control (41_display_control.md): the brightness byte, the transactions a sequence sends, and
what SET_BRIGHTNESS, INITIALIZE and the display writes do, run to their end. -/

namespace Sys2Proof.Machine

/-! ### The brightness byte -/

/-- A clamped level lies in the level bits of the brightness byte (41_display_control.md R132). -/
theorem level_and_mask (level : Nat) :
    BitVec.ofNat 8 (min level 7) &&& 0x07#8 = BitVec.ofNat 8 (min level 7) := by
  have hlevels : ∀ l : Fin 8, BitVec.ofNat 8 l.val &&& 0x07#8 = BitVec.ofNat 8 l.val := by decide
  exact hlevels ⟨min level 7, by omega⟩

theorem brightByte_of_seven_le (c : Config) {level : Nat} (h : 7 ≤ level) (on : Bit) :
    brightByte c level on = brightByte c 7 on := by
  rw [brightByte, brightByte, Nat.min_eq_right h, Nat.min_self]

/-- With the level bits clear in both base patterns, those of the brightness byte are the level. -/
theorem brightByte_and_mask {c : Config} (h : c.levelsClear) (level : Nat) (on : Bit) :
    brightByte c level on &&& 0x07#8 = BitVec.ofNat 8 (min level 7) := by
  obtain ⟨hon, hoff⟩ := h
  have hbase : (if on then c.cmdDisplayOn else c.cmdDisplayOff) &&& 0x07#8 = 0#8 := by
    cases on
    · exact hoff
    · exact hon
  rw [brightByte, BitVec.and_or_distrib_right, hbase, level_and_mask, BitVec.zero_or]

/-- A level set in two patterns in which its bits are clear leaves their difference. -/
theorem or_xor_or_of_mask {x y l m : Byte} (hx : x &&& m = 0#8) (hy : y &&& m = 0#8) (hl : l &&& m = l) :
    (x ||| l) ^^^ (y ||| l) = x ^^^ y := by
  refine BitVec.eq_of_getLsbD_eq fun k _ => ?_
  have hxk := congrArg (BitVec.getLsbD · k) hx
  have hyk := congrArg (BitVec.getLsbD · k) hy
  have hlk := congrArg (BitVec.getLsbD · k) hl
  simp only [BitVec.getLsbD_and, BitVec.getLsbD_zero] at hxk hyk hlk
  rw [BitVec.getLsbD_xor, BitVec.getLsbD_xor, BitVec.getLsbD_or, BitVec.getLsbD_or]
  cases hbit : l.getLsbD k with
  | false => rw [Bool.or_false, Bool.or_false]
  | true =>
    rw [hbit, Bool.true_and] at hlk
    rw [hlk, Bool.and_true] at hxk hyk
    rw [hxk, hyk]; rfl

/-- Settles O39: the level lies in the level bits, which are clear in both base patterns. -/
theorem brightByteOfLevel : Obligations.BrightByteOfLevel := by
  intro c level on hwf
  obtain ⟨-, -, hlevels, -, -⟩ := hwf
  have ⟨hon, hoff⟩ := hlevels
  refine ⟨brightByte_valid c level on, fun h => brightByte_of_seven_le c h on, ?_, ?_⟩
  · rw [brightByte_and_mask hlevels, BitVec.toNat_ofNat, Nat.mod_eq_of_lt (by omega)]
  · exact or_xor_or_of_mask hon hoff (level_and_mask level)

/-! ### The transactions of a sequence -/

/-- After bytes as before them, both pins are outputs at 0. -/
theorem EndsAt.append_writeBytes {p : List MicroStep} (hp : EndsAt p false) (bytes : List Byte) :
    EndsAt (p ++ bytes.flatMap writeByteSeq) false := by
  induction bytes generalizing p with
  | nil => rwa [List.flatMap_nil, List.append_nil]
  | cons b bytes ih =>
    rw [List.flatMap_cons, ← List.append_assoc]
    exact ih (hp.append (writeByteSeq_endsAt b))

/-- The pins after a sequence performed from a boundary. -/
theorem EndsAt.performAll_pins {p : List MicroStep} {v : Bit} (hp : EndsAt p v) {s : State}
    (h : atBoundary s.clk s.dio) : (s.performAll p).clk = .driven v ∧ (s.performAll p).dio = .driven v := by
  obtain ⟨x, hclk, hdio⟩ := h
  rw [State.performAll_clk, State.performAll_dio, hclk, hdio, hp.pins]
  exact ⟨rfl, rfl⟩

/-- Bytes sent one after the other make clock edges alone, nine to a byte, from which the monitor reads the bytes. -/
theorem State.wires_writeBytes {s : State} (hclk : s.clk.dir = .output) (hdio : s.dio.dir = .output) (bytes : List Byte) :
    ∃ edges, s.wires (bytes.flatMap writeByteSeq) = edges.map .edge ∧
      ∀ rest, bytesOfEdges (edges ++ rest) = bytes ++ bytesOfEdges rest := by
  induction bytes generalizing s with
  | nil => exact ⟨[], rfl, fun _ => rfl⟩
  | cons b bytes ih =>
    have hclk' : (s.performAll (writeByteSeq b)).clk.dir = .output := by rw [State.performAll_clk]; exact hclk
    have hdio' : (s.performAll (writeByteSeq b)).dio.dir = .output := by rw [State.performAll_dio]; rfl
    obtain ⟨edges, hwires, hbytes⟩ := ih hclk' hdio'
    refine ⟨(bitsOf b ++ [s.nextDraw]) ++ edges, ?_, fun rest => ?_⟩
    · rw [List.flatMap_cons, State.wires_append, State.wires_writeByteSeq hclk hdio, hwires, ← List.map_append]
    · rw [List.append_assoc, List.append_assoc, List.singleton_append, bytesOfEdges_bitsOf, hbytes, List.cons_append]

/-- The micro-steps of one transaction: START, its bytes in order, STOP (40_bus_protocol.md R108, 41_display_control.md R135). -/
def transactionSeq (bytes : List Byte) : List MicroStep := startSeq ++ bytes.flatMap writeByteSeq ++ stopSeq

theorem transactionSeq_endsAt (bytes : List Byte) : EndsAt (transactionSeq bytes) true :=
  (startSeq_endsAt.append_writeBytes bytes).append stopSeq_endsAt

/-- From a boundary, a transaction's wires are those of START, clock edges that carry its bytes, and a stop condition. -/
theorem State.wires_transactionSeq {s : State} (h : atBoundary s.clk s.dio) (bytes : List Byte) :
    ∃ edges, s.wires (transactionSeq bytes) = s.wires startSeq ++ (edges.map .edge ++ [.stop]) ∧
      bytesOfEdges edges = bytes := by
  obtain ⟨hclk, hdio⟩ := startSeq_endsAt.performAll_pins h
  obtain ⟨hclk', hdio'⟩ := (startSeq_endsAt.append_writeBytes bytes).performAll_pins h
  obtain ⟨edges, hwires, hbytes⟩ := State.wires_writeBytes (congrArg Pin.dir hclk) (congrArg Pin.dir hdio) bytes
  refine ⟨edges ++ [false], ?_, (hbytes [false]).trans (List.append_nil bytes)⟩
  rw [transactionSeq, State.wires_append, State.wires_append, hwires, State.wires_stopSeq hclk' hdio']
  simp

/-- From a boundary the sequence leaves both pins outputs at 1, and the monitor reads in it the transactions `sent`, with one start
and one stop condition each and no others. -/
structure Sends (p : List MicroStep) (sent : List (List Byte)) : Prop where
  endsAt : EndsAt p true
  transactions_append : ∀ {s : State}, atBoundary s.clk s.dio → ∀ rest,
    transactions (s.wires p ++ rest) = sent ++ transactions rest
  starts : ∀ {s : State}, atBoundary s.clk s.dio → (s.wires p).countP (fun e => decide (e = .start)) = sent.length
  stops : ∀ {s : State}, atBoundary s.clk s.dio → (s.wires p).countP (fun e => decide (e = .stop)) = sent.length

theorem Sends.append {p q : List MicroStep} {sent sent' : List (List Byte)} (hp : Sends p sent) (hq : Sends q sent') :
    Sends (p ++ q) (sent ++ sent') := by
  have hbound {s : State} (h : atBoundary s.clk s.dio) : atBoundary (s.performAll p).clk (s.performAll p).dio :=
    ⟨true, hp.endsAt.performAll_pins h⟩
  refine ⟨hp.endsAt.append hq.endsAt, fun h rest => ?_, fun h => ?_, fun h => ?_⟩ <;> rw [State.wires_append]
  · rw [List.append_assoc, hp.transactions_append h, hq.transactions_append (hbound h), List.append_assoc]
  · rw [List.countP_append, hp.starts h, hq.starts (hbound h), List.length_append]
  · rw [List.countP_append, hp.stops h, hq.stops (hbound h), List.length_append]

/-- The monitor reads nothing of a micro-step that writes a register. -/
theorem State.wires_cons_of_writesRegister (s : State) {m : MicroStep} (h : m.writesRegister = true)
    (p : List MicroStep) : s.wires (m :: p) = (s.perform m).wires p := by
  cases m
  case setBright | setFrameOut | setResult => rfl
  all_goals exact nomatch h

theorem Sends.cons {m : MicroStep} {p : List MicroStep} {sent : List (List Byte)} (hm : m.writesRegister = true)
    (hp : Sends p sent) : Sends (m :: p) sent := by
  have hbound {s : State} (h : atBoundary s.clk s.dio) : atBoundary (s.perform m).clk (s.perform m).dio := by
    obtain ⟨hclk, hdio⟩ := s.perform_pins_of_writesRegister hm
    rwa [hclk, hdio]
  refine ⟨hp.endsAt.cons hm, fun h rest => ?_, fun h => ?_, fun h => ?_⟩ <;>
    rw [State.wires_cons_of_writesRegister _ hm]
  · exact hp.transactions_append (hbound h) rest
  · exact hp.starts (hbound h)
  · exact hp.stops (hbound h)

theorem transactionSeq_sends (bytes : List Byte) : Sends (transactionSeq bytes) [bytes] := by
  refine ⟨transactionSeq_endsAt bytes, fun h rest => ?_, fun h => ?_, fun h => ?_⟩ <;>
    obtain ⟨edges, hwires, hbytes⟩ := State.wires_transactionSeq h bytes <;>
    rw [hwires]
  · rw [List.append_assoc, transactions_wires_startSeq h, List.append_assoc, transactionsFrom_edges, List.nil_append,
      List.singleton_append, transactionsFrom, hbytes, List.singleton_append, transactions]
  all_goals
    obtain ⟨v, hclk, hdio⟩ := h
    rw [State.wires_startSeq hclk hdio]
    cases v <;> simp [List.countP_map]

theorem sendCommandSeq_eq (b : Byte) : sendCommandSeq b = transactionSeq [b] := by
  rw [transactionSeq, List.flatMap_singleton, sendCommandSeq]

theorem sendCommandSeq_sends (b : Byte) : Sends (sendCommandSeq b) [[b]] :=
  sendCommandSeq_eq b ▸ transactionSeq_sends [b]

theorem setBrightnessSeq_sends (c : Config) (level : Nat) (on : Bit) :
    Sends (setBrightnessSeq c level on) [[brightByte c level on]] :=
  .cons rfl (sendCommandSeq_sends _)

/-- A display write is its frame and three transactions (41_display_control.md R135). -/
theorem setSegmentsSeq_eq (c : Config) (f : Word) (bright : Byte) :
    setSegmentsSeq c f bright = .setFrameOut f :: (transactionSeq [c.cmdDataAuto] ++
      transactionSeq [c.cmdAddr, frameByte f 0, frameByte f 1, frameByte f 2, frameByte f 3] ++ transactionSeq [bright]) := by
  simp only [setSegmentsSeq, sendCommandSeq_eq, transactionSeq, List.flatMap_cons, List.flatMap_nil, List.append_nil,
    List.append_assoc]

theorem setSegmentsSeq_sends (c : Config) (f : Word) (bright : Byte) : Sends (setSegmentsSeq c f bright)
    [[c.cmdDataAuto], [c.cmdAddr, frameByte f 0, frameByte f 1, frameByte f 2, frameByte f 3], [bright]] := by
  rw [setSegmentsSeq_eq]
  exact .cons rfl (((transactionSeq_sends _).append (transactionSeq_sends _)).append (transactionSeq_sends _))

theorem Sends.transactions_wires {p : List MicroStep} {sent : List (List Byte)} (hp : Sends p sent) {s : State}
    (h : atBoundary s.clk s.dio) : transactions (s.wires p) = sent := by
  have hnone : transactions [] = [] := rfl
  simpa only [List.append_nil, hnone] using hp.transactions_append h []

/-! ### The registers of a sequence -/

theorem State.SameButBus.perform {s t : State} (h : s.SameButBus t) {m : MicroStep} (hm : m.writesRegister = true) :
    (s.perform m).SameButBus (t.perform m) := by
  rw [h]
  cases m
  case setBright | setFrameOut | setResult => rfl
  all_goals exact nomatch hm

theorem transactionSeq_recorded (bytes : List Byte) :
    (transactionSeq bytes).all (fun m => (m.busEvent false).isSome) = true := by
  have hbyte (b : Byte) : (writeByteSeq b).all (fun m => (m.busEvent false).isSome) = true := rfl
  rw [transactionSeq, List.all_append, List.all_append, List.all_flatMap, List.all_eq_true.2 fun b _ => hbyte b]
  rfl

theorem State.performAll_setBrightnessSeq (s : State) (c : Config) (level : Nat) (on : Bit) :
    (s.perform (.setBright (brightByte c level on))).SameButBus (s.performAll (setBrightnessSeq c level on)) := by
  rw [setBrightnessSeq, sendCommandSeq_eq, State.performAll_cons]
  exact State.performAll_sameButBus _ (transactionSeq_recorded _)

theorem State.performAll_setSegmentsSeq (s : State) (c : Config) (f : Word) (bright : Byte) :
    (s.perform (.setFrameOut f)).SameButBus (s.performAll (setSegmentsSeq c f bright)) := by
  rw [setSegmentsSeq_eq, State.performAll_cons]
  refine State.performAll_sameButBus _ ?_
  rw [List.all_append, List.all_append, transactionSeq_recorded, transactionSeq_recorded, transactionSeq_recorded]
  rfl

/-- An operation accepted after INITIALIZE and run to its end, which drives both pins to 1 and but for the bus leaves `r`. -/
theorem State.complete_of_sameButBus {s r : State} {i : Instr} (hagree : s.busyAgrees) (hready : s.ready)
    (hr : r.SameButBus (State.performAll { s with lat := s.latchOf i } (progOf i s)))
    (hpins : pinsAfter s.clk s.dio (progOf i s) = (.driven true, .driven true)) :
    ∃ t u tr, exec i s = .next t ∧ t.complete = u ∧
      u = { r with
        clk := .driven true, dio := .driven true, trace := s.trace ++ tr
        ackLatch := u.ackLatch, peerDio := u.peerDio, peerDraws := u.peerDraws, drawCount := u.drawCount } ∧
      wiresBetween s u = (s.begun i).wires (progOf i s) := by
  refine ⟨_, _, { s with lat := s.latchOf i }.entries (progOf i s),
    exec_of_accepts (State.accepts_of_ready hready i), rfl, ?_, State.wiresBetween_complete hready i⟩
  rw [State.complete_accept hready, State.begun_of_busyAgrees hagree hready.1]
  refine Eq.trans hr ?_
  rw [State.performAll_clk, State.performAll_dio, State.performAll_trace, hpins]

/-! ### SET_BRIGHTNESS -/

/-- Settles O27: the byte is cached by the first micro-step and sent by the rest. -/
theorem setBrightnessEffect : Obligations.SetBrightnessEffect := by
  intro s level on hagree hready hbound b
  have hsends : Sends (progOf (.setBrightness level on) s) [[b]] := setBrightnessSeq_sends s.cfg level on
  have ⟨v, hclk, hdio⟩ := hbound
  obtain ⟨t, u, tr, hexec, hu, hstate, hwires⟩ := State.complete_of_sameButBus (i := .setBrightness level on)
    hagree hready (State.performAll_setBrightnessSeq _ s.cfg level on) (by rw [hclk, hdio]; exact hsends.endsAt.pins v v)
  exact ⟨t, u, tr, hexec, hu, hstate, hwires ▸ hsends.transactions_wires hbound⟩

/-! ### The display writes -/

/-- Settles O29: each of the five operations is the display write of its frame. -/
theorem everyDisplayWriteSendsItsFrame : Obligations.EveryDisplayWriteSendsItsFrame := by
  intro s i f hi hagree hready hbound
  have hprog : progOf i s = setSegmentsSeq s.cfg f s.bright := by
    obtain ⟨rfl, rfl⟩ | ⟨rfl, rfl⟩ | ⟨_, _, _, _, rfl, rfl⟩ | ⟨_, _, rfl, rfl⟩ | ⟨_, _, _, rfl, rfl⟩ := hi <;> rfl
  have hsends := setSegmentsSeq_sends s.cfg f s.bright
  have ⟨v, hclk, hdio⟩ := hbound
  obtain ⟨t, u, tr, hexec, hu, hstate, hwires⟩ := State.complete_of_sameButBus (i := i) hagree hready
    (by rw [hprog]; exact State.performAll_setSegmentsSeq _ s.cfg f s.bright)
    (by rw [hprog, hclk, hdio]; exact hsends.endsAt.pins v v)
  rw [hprog] at hwires
  refine ⟨t, u, tr, hexec, hu, hstate, ?_⟩
  rw [hwires]
  exact ⟨hsends.transactions_wires hbound, hsends.starts hbound, hsends.stops hbound⟩

/-! ### INITIALIZE -/

/-- What INITIALIZE performs first: both pins driven to 1 (41_display_control.md R130). -/
def driveHighSeq : List MicroStep := [.dirOut .clk, .dirOut .dio, .drive .clk true, .wait, .drive .dio true, .wait]

theorem initialiseProg_eq (c : Config) : initialiseProg c =
    driveHighSeq ++ (setBrightnessSeq c 7 true ++ setSegmentsSeq c 0#32 (brightByte c 7 true)) := by
  rw [initialiseProg, List.append_assoc, driveHighSeq]

/-- With no transaction open, driving both lines to 1 makes none, from a boundary and from released lines that read 1. -/
theorem transactions_wires_driveHighSeq {s : State}
    (h : atBoundary s.clk s.dio ∨ (s.clk = .released ∧ s.dio = .released ∧ s.peerDio = true)) (rest : List WireEvent) :
    transactions (s.wires driveHighSeq ++ rest) = transactions rest := by
  obtain ⟨v, hclk, hdio⟩ | ⟨hclk, hdio, hpeer⟩ := h
  · have hwires : s.wires driveHighSeq = if v then [] else [.edge false, .stop] := by
      cases v <;> simp [driveHighSeq, State.entry, MicroStep.busEvent, wireEvent, State.clkLine_eq, State.dioLine_eq,
        State.pin, Pin.driven, hclk, hdio]
    rw [hwires]
    cases v <;> rfl
  · have hwires : s.wires driveHighSeq = [] := by
      simp [driveHighSeq, State.entry, MicroStep.busEvent, wireEvent, State.clkLine_eq, State.dioLine_eq,
        State.pin, Pin.released, hclk, hdio, hpeer]
    rw [hwires, List.nil_append]

theorem transactions_wires_initialiseProg {s : State}
    (h : atBoundary s.clk s.dio ∨ (s.clk = .released ∧ s.dio = .released ∧ s.peerDio = true)) (c : Config) :
    transactions (s.wires (initialiseProg c)) = [[brightByte c 7 true], [c.cmdDataAuto],
      [c.cmdAddr, 0x00#8, 0x00#8, 0x00#8, 0x00#8], [brightByte c 7 true]] := by
  have hbound : atBoundary (s.performAll driveHighSeq).clk (s.performAll driveHighSeq).dio :=
    ⟨true, by rw [State.performAll_clk]; rfl, by rw [State.performAll_dio]; rfl⟩
  have hsends := (setBrightnessSeq_sends c 7 true).append (setSegmentsSeq_sends c 0#32 (brightByte c 7 true))
  rw [initialiseProg_eq, State.wires_append, transactions_wires_driveHighSeq h]
  exact hsends.transactions_wires hbound

theorem State.performAll_initialiseProg (s : State) (c : Config) :
    ((s.perform (.setBright (brightByte c 7 true))).perform (.setFrameOut 0#32)).SameButBus
      (s.performAll (initialiseProg c)) := by
  have hdrive : s.SameButBus (s.performAll driveHighSeq) := s.performAll_sameButBus rfl
  have hbright := (hdrive.perform rfl).trans (State.performAll_setBrightnessSeq _ c 7 true)
  rw [initialiseProg_eq, State.performAll_append, State.performAll_append]
  exact (hbright.perform rfl).trans (State.performAll_setSegmentsSeq _ c 0#32 _)

/-- The state with INIT set. -/
def State.initialised (s : State) : State := { s with status := { s.status with init := true } }

/-- INITIALIZE is accepted before it as after it (60_exceptions.md R183), and leaves the same state. -/
theorem exec_initialise_initialised {s : State} (hidle : s.status.busy = false) :
    exec .initialise s = exec .initialise s.initialised := by
  rw [exec_of_accepts (i := .initialise) ⟨hidle, .inr (.inl rfl)⟩,
    exec_of_accepts (s := s.initialised) (i := .initialise) ⟨hidle, .inl rfl⟩]
  simp only [State.accept, State.initialised, State.latchOf, progOf, Instr.opcode, beq_self_eq_true, Bool.or_true]

/-- Settles O28: INITIALIZE is performed as after an INITIALIZE; it drives both lines to 1 and then sends the brightness byte and a
blank frame. -/
theorem initialiseEffect : Obligations.InitialiseEffect := by
  intro s hagree hidle hpins b
  obtain ⟨t, u, tr, hexec, hu, hstate, hwires⟩ := State.complete_of_sameButBus (s := s.initialised) (i := .initialise)
    hagree ⟨hidle, rfl⟩ (State.performAll_initialiseProg _ s.cfg) (initialiseProg_pins s.cfg s.clk s.dio).2
  have hwires' : wiresBetween s u = (s.initialised.begun .initialise).wires (initialiseProg s.cfg) := hwires
  refine ⟨t, u, tr, (exec_initialise_initialised hidle).trans hexec, hu, hstate, ?_⟩
  rw [hwires']
  exact transactions_wires_initialiseProg (s := s.initialised.begun .initialise) hpins s.cfg

end Sys2Proof.Machine
end

section
/-! SUPPORT. The statements on formatting (42_formatting.md): the glyph of a digit, the clamped field, sign and magnitude, what
each position of a formatted number and of a formatted time shows, and the operations ENCODE_DIGIT and SHOW_NUMBER. -/

namespace Sys2Proof.Machine

/-! ### The glyph of a digit -/

theorem glyphOf_of_lt (c : Config) {d : Nat} (h : d < 10) : glyphOf c d = c.glyph[d] := dif_pos h

theorem glyphOf_of_not_lt (c : Config) {d : Nat} (h : ¬ d < 10) : glyphOf c d = 0x00#8 := dif_neg h

/-- With R7's constraint (i), bit 7 of the glyph of a number is clear, of a digit or not. -/
theorem glyphOf_getLsbD_seven {c : Config} (hclear : c.glyphsClear) (d : Nat) : (glyphOf c d).getLsbD 7 = false := by
  by_cases hd : d < 10
  · have hbit := congrArg (BitVec.getLsbD · 7) (hclear ⟨d, hd⟩)
    rw [glyphOf_of_lt c hd]
    simpa using hbit
  · rw [glyphOf_of_not_lt c hd]; rfl

/-- Settles O32: a digit has an entry in the table, and any other number none. -/
theorem encodeDigitGlyphs : Obligations.EncodeDigitGlyphs := fun c d hclear =>
  ⟨glyphOf_of_lt c, fun hd => glyphOf_of_not_lt c (by omega), glyphOf_getLsbD_seven hclear d⟩

/-! ### The clamped field -/

/-- The clamped length is what is left of the display from the clamped position, if the length asked for is more
(42_formatting.md R152). -/
theorem clampField_eq (length pos : Nat) :
    clampField length pos = (min (min length 4) (4 - min pos 3), min pos 3) := by
  rw [clampField]
  congr 1
  split <;> omega

/-- Settles O33: arithmetic on the clamped field. -/
theorem fieldClamping : Obligations.FieldClamping := by
  intro length pos
  simp only [clampField_eq, Prod.mk.injEq]
  refine ⟨trivial, ?_, ?_⟩
  · split <;> omega
  · omega

/-! ### Sign and magnitude -/

/-- A value has its magnitude unless it is negative without permission, and its sign when it is negative with it
(42_formatting.md R153). -/
theorem signMagnitude_eq (v : Int) (an : Bit) :
    signMagnitude v an = (decide (v < 0) && an, if 0 ≤ v ∨ an = true then v.natAbs else 0) := by
  by_cases hv : v < 0
  · cases an <;> simp [signMagnitude, hv]
  · simp [signMagnitude, hv, Int.not_lt.mp hv]

/-- The magnitude of a negative word, exact at -2^31 too. -/
theorem natAbs_s32_of_neg {w : Word} (h : s32 w < 0) : (s32 w).natAbs = 2 ^ 32 - w.toNat := by
  rw [s32, BitVec.toInt_eq_toNat_cond] at h ⊢
  split at h <;> omega

/-- Settles O34: of a negative word the magnitude is its distance from 2^32. -/
theorem signAndMagnitude : Obligations.SignAndMagnitude := by
  intro w an
  refine ⟨fun h => ?_, fun h => ?_, fun h => ?_, by decide⟩ <;> rw [signMagnitude_eq]
  · simp [h, Int.not_lt.mpr h]
    omega
  · simp [h]
  · simp [h, natAbs_s32_of_neg h]

/-! ### The digit loop -/

/-- What the digit loop puts `place` positions left of where it begins: blank where no digit is left and leading zeros are off,
but never at its `first` position; otherwise the decimal digit of that place (42_formatting.md R154). -/
def placeGlyph (c : Config) (lz first : Bit) (mag place : Nat) : Byte :=
  if (first = true → 0 < place) ∧ mag < 10 ^ place ∧ lz = false then Config.blank
  else glyphOf c (mag / 10 ^ place % 10)

/-- One round of the loop. A blanked position leaves a magnitude of 0, which is its own tenth. -/
theorem fillDigits_succ (c : Config) (lz : Bit) (P n : Nat) (first : Bool) (mag : Nat) (p : Vector Byte 4) :
    fillDigits c lz P (n + 1) first mag p =
      fillDigits c lz P n false (mag / 10) (p.setIfInBounds (P + n) (placeGlyph c lz first mag 0)) := by
  rw [fillDigits]
  by_cases hblank : first = false ∧ mag = 0 ∧ lz = false
  · obtain ⟨rfl, rfl, rfl⟩ := hblank
    rfl
  · rw [if_neg (by simpa [and_assoc] using hblank), placeGlyph, if_neg (by simpa using hblank), Nat.pow_zero, Nat.div_one]

theorem placeGlyph_succ (c : Config) (lz first : Bit) (mag place : Nat) :
    placeGlyph c lz first mag (place + 1) = placeGlyph c lz false (mag / 10) place := by
  have hlt : mag / 10 < 10 ^ place ↔ mag < 10 ^ (place + 1) := by
    rw [Nat.div_lt_iff_lt_mul (by decide), Nat.pow_succ]
  simp [placeGlyph, hlt, Nat.div_div_eq_div_mul, ← Nat.pow_succ']

/-- The magnitude that `n` rounds leave over. -/
theorem fillDigits_snd (c : Config) (lz : Bit) (P n : Nat) (first : Bool) (mag : Nat) (p : Vector Byte 4) :
    (fillDigits c lz P n first mag p).2 = mag / 10 ^ n := by
  induction n generalizing first mag p with
  | zero => rw [fillDigits, Nat.pow_zero, Nat.div_one]
  | succ n ih => rw [fillDigits_succ, ih, Nat.div_div_eq_div_mul, Nat.pow_succ']

theorem fillDigits_snd_ne_zero_iff (c : Config) (lz : Bit) (P n : Nat) (first : Bool) (mag : Nat) (p : Vector Byte 4) :
    (fillDigits c lz P n first mag p).2 ≠ 0 ↔ 10 ^ n ≤ mag := by
  rw [fillDigits_snd, Nat.div_ne_zero_iff]
  simp

/-- The loop fills the field `[P, P+n)`, its rightmost position with place 0, and leaves the other positions. -/
theorem fillDigits_getElem (c : Config) (lz : Bit) (P n : Nat) (first : Bool) (mag : Nat) (p : Vector Byte 4)
    {k : Nat} (hk : k < 4) :
    (fillDigits c lz P n first mag p).1[k] =
      if P ≤ k ∧ k < P + n then placeGlyph c lz first mag (P + n - 1 - k) else p[k] := by
  induction n generalizing first mag p with
  | zero => rw [fillDigits, if_neg (by omega)]
  | succ n ih =>
    rw [fillDigits_succ, ih, Vector.getElem_setIfInBounds]
    by_cases hlast : P + n = k
    · rw [if_neg (by omega), if_pos hlast, if_pos (by omega), show P + (n + 1) - 1 - k = 0 by omega]
    · rw [if_neg hlast]
      by_cases hin : P ≤ k ∧ k < P + n
      · rw [if_pos hin, if_pos (by omega), ← placeGlyph_succ c lz first,
          show P + (n + 1) - 1 - k = P + n - 1 - k + 1 by omega]
      · rw [if_neg hin, if_neg (by omega)]

/-! ### The positions of a field -/

theorem dashField_getElem (P n : Nat) (p : Vector Byte 4) {k : Nat} (hk : k < 4) :
    (dashField P n p)[k] = if P ≤ k ∧ k < P + n then Config.dash else p[k] := by
  induction n generalizing p with
  | zero => rw [dashField, if_neg (by omega)]
  | succ n ih =>
    rw [dashField, ih, Vector.getElem_setIfInBounds]
    by_cases hlast : P + n = k
    · rw [if_neg (by omega), if_pos hlast, if_pos (by omega)]
    · rw [if_neg hlast]
      exact if_congr (by omega) rfl rfl

theorem formatField_of_overflow (c : Config) (neg : Bit) {mag L : Nat} (h : 10 ^ L ≤ mag) (P : Nat) (lz : Bit) :
    formatField c neg mag L P lz =
      dashField P L (fillDigits c lz P L true mag (Vector.replicate 4 Config.blank)).1 :=
  if_pos ((fillDigits_snd_ne_zero_iff ..).mpr h)

theorem formatField_of_fits (c : Config) (neg : Bit) {mag L : Nat} (h : ¬ 10 ^ L ≤ mag) (P : Nat) (lz : Bit) :
    formatField c neg mag L P lz =
      let p := (fillDigits c lz P L true mag (Vector.replicate 4 Config.blank)).1
      if neg ∧ 0 < L then p.setIfInBounds P Config.dash else p :=
  if_neg (mt (fillDigits_snd_ne_zero_iff ..).mp h)

/-- Outside the field a position is blank (42_formatting.md R157). -/
theorem formatField_getElem_outside (c : Config) (neg : Bit) (mag L P : Nat) (lz : Bit) {k : Nat} (hk : k < 4)
    (hout : k < P ∨ P + L ≤ k) : (formatField c neg mag L P lz)[k] = Config.blank := by
  have hfill := fillDigits_getElem c lz P L true mag (Vector.replicate 4 Config.blank) hk
  rw [if_neg (by omega), Vector.getElem_replicate] at hfill
  by_cases hover : 10 ^ L ≤ mag
  · simp only [formatField_of_overflow c neg hover]
    rw [dashField_getElem _ _ _ hk, if_neg (by omega), hfill]
  · simp only [formatField_of_fits c neg hover]
    split
    next hsign => rw [Vector.getElem_setIfInBounds, if_neg (by omega), hfill]
    next => exact hfill

/-- On overflow every position of the field is the dash glyph (42_formatting.md R155). -/
theorem formatField_getElem_overflow (c : Config) (neg : Bit) {mag L P : Nat} (lz : Bit) {k : Nat} (hk : k < 4)
    (hin : P ≤ k ∧ k < P + L) (hover : 10 ^ L ≤ mag) : (formatField c neg mag L P lz)[k] = Config.dash := by
  simp only [formatField_of_overflow c neg hover]
  rw [dashField_getElem _ _ _ hk, if_pos hin]

/-- A magnitude that fits shows its digits, under the sign at the leftmost position (42_formatting.md R154, R156). -/
theorem formatField_getElem_fits (c : Config) (neg : Bit) {mag L P : Nat} (lz : Bit) {k : Nat} (hk : k < 4)
    (hin : P ≤ k ∧ k < P + L) (hover : ¬ 10 ^ L ≤ mag) : (formatField c neg mag L P lz)[k] =
      if neg = true ∧ k = P then Config.dash else placeGlyph c lz true mag (P + L - 1 - k) := by
  have hfill := fillDigits_getElem c lz P L true mag (Vector.replicate 4 Config.blank) hk
  rw [if_pos hin] at hfill
  simp only [formatField_of_fits c neg hover]
  by_cases hneg : neg = true
  · simp only [if_pos (show neg = true ∧ 0 < L from ⟨hneg, by omega⟩)]
    rw [Vector.getElem_setIfInBounds, hfill]
    exact if_congr (by rw [and_iff_right hneg, eq_comm]) rfl rfl
  · simp only [if_neg (show ¬ (neg = true ∧ 0 < L) from fun h => hneg h.1)]
    rw [hfill, if_neg fun h => hneg h.1]

/-- Settles O35: the loop leaves a magnitude over where it is not below 10^L, and the field is then dashed. -/
theorem overflowShowsDashes : Obligations.OverflowShowsDashes := fun c neg mag L P lz _ =>
  ⟨fillDigits_snd_ne_zero_iff c lz P L true mag _,
    fun hover k hleft hright => formatField_getElem_overflow c neg lz k.isLt ⟨hleft, hright⟩ hover⟩

/-! ### The positions of a frame -/

/-- The positions of a packed frame are those packed (10_state.md R26). -/
theorem packFrame_position (p : Vector Byte 4) (k : Fin 4) : (packFrame p).extractLsb' (8 * k.val) 8 = p[k] := by
  rw [packFrame]
  match k with
  | 0 => exact BitVec.extractLsb'_append_eq_right
  | 1 => exact (BitVec.extractLsb'_append_eq_of_le (by decide)).trans BitVec.extractLsb'_append_eq_right
  | 2 => exact (BitVec.extractLsb'_append_eq_of_le (by decide)).trans <|
      (BitVec.extractLsb'_append_eq_of_le (by decide)).trans BitVec.extractLsb'_append_eq_right
  | 3 => exact (BitVec.extractLsb'_append_eq_of_le (by decide)).trans <|
      (BitVec.extractLsb'_append_eq_of_le (by decide)).trans BitVec.extractLsb'_append_eq_left

/-- Settles O36: the four positions of the frame are those of the clamped field, by where each stands and whether the magnitude
fits. -/
theorem formatNumberClosedForm : Obligations.FormatNumberClosedForm := by
  intro c v length pos lz an k P L neg mag place
  have hframe : (formatNumber c v length pos lz an).extractLsb' (8 * k.val) 8 =
      (formatField c neg mag L P lz)[k.val] := by
    rw [formatNumber, packFrame_position, signMagnitude_eq, clampField_eq, Fin.getElem_fin]
  rw [hframe]
  by_cases hout : k.val < P ∨ P + L ≤ k.val
  · rw [if_pos hout]
    exact formatField_getElem_outside c neg mag L P lz k.isLt hout
  have hin : P ≤ k.val ∧ k.val < P + L := by omega
  rw [if_neg hout]
  by_cases hover : 10 ^ L ≤ mag
  · rw [if_pos hover]
    exact formatField_getElem_overflow c neg lz k.isLt hin hover
  · rw [if_neg hover, formatField_getElem_fits c neg lz k.isLt hin hover, placeGlyph]
    simp only [forall_const]
    rfl

/-- Settles O37: blank, dash and every glyph have bit 7 clear. -/
theorem formattedNumberHasNoIndicator : Obligations.FormattedNumberHasNoIndicator := by
  intro c v length pos lz an k hclear
  have hbit : (formatNumber c v length pos lz an).getLsbD (8 * k.val + 7) =
      ((formatNumber c v length pos lz an).extractLsb' (8 * k.val) 8).getLsbD 7 := by
    simp
  have hblank : (0x00#8).getLsbD 7 = false := rfl
  have hdash : (0x40#8).getLsbD 7 = false := rfl
  rw [hbit, formatNumberClosedForm]
  simp only [apply_ite (BitVec.getLsbD · 7), hblank, hdash, glyphOf_getLsbD_seven hclear, ite_self]

/-! ### The positions of a formatted time -/

/-- The digits of a time: tens and units of hour and minute (42_formatting.md R161). -/
def timeDigits (c : Config) (h m : Nat) : Vector Byte 4 :=
  #v[glyphOf c (h / 10), glyphOf c (h % 10), glyphOf c (m / 10), glyphOf c (m % 10)]

/-- A mask ORed into one position leaves the others (42_formatting.md R161). -/
theorem set_or_getElem (p : Vector Byte 4) (i k : Fin 4) (mask : Byte) :
    (p.set i (p[i] ||| mask))[k] = p[k] ||| (if k = i then mask else 0x00#8) := by
  by_cases hk : k = i
  · subst hk
    simp
  · simp [hk, Fin.val_ne_of_ne (Ne.symm hk)]

theorem formatTime_position (c : Config) (h m : Nat) (colon : Bit) (k : Fin 4) :
    (formatTime c h m colon).extractLsb' (8 * k.val) 8 =
      (timeDigits c h m)[k] ||| (if colon = true ∧ k = c.indicatorPos then c.indicatorMask else 0x00#8) := by
  rw [formatTime, packFrame_position]
  cases colon with
  | false => simp [timeDigits]
  | true =>
    rw [if_pos rfl, set_or_getElem]
    simp [timeDigits]

/-- Settles O38: the indicator is ORed into the digits of the time at its position. -/
theorem formatTimePositions : Obligations.FormatTimePositions := by
  intro c h m colon k
  rw [formatTime_position]
  fin_cases k <;> rfl

/-! ### The operations -/

/-- Settles O30: the one micro-step puts the glyph in RESULT and ends the operation; INIT, which acceptance does not set, and BUSY
are as they were. -/
theorem encodeDigitEffect : Obligations.EncodeDigitEffect := by
  intro s d hagree hidle
  refine ⟨_, exec_of_accepts (i := .encodeDigit d) ⟨hidle, .inr (.inr rfl)⟩, rfl, ?_⟩
  rw [State.complete_eq (List.cons_ne_nil _ _)]
  change { s.begun (.encodeDigit d) with
    result := glyphOf s.cfg d
    status := { s.status with busy := false, init := s.status.init || false } } = _
  rw [State.begun_of_busyAgrees hagree hidle, Bool.or_false, ← hidle]
  rfl

/-- Settles O31: both put the same sequence in `prog`. -/
theorem showNumberIsShowNumberAtFourZero : Obligations.ShowNumberIsShowNumberAtFourZero := fun _ lz an hready =>
  ⟨_, _, exec_of_accepts (State.accepts_of_ready hready (.showNumber lz an)),
    exec_of_accepts (State.accepts_of_ready hready (.showNumberAt 4 0 lz an)), rfl⟩

end Sys2Proof.Machine
end

section
/-! SUPPORT. The statements on the acceptance step (60_exceptions.md R181 to R188): what a word written to CMD does, the operations
that are turned away and those that are accepted, and the step of the machine that runs one. -/

namespace Sys2Proof.Machine

/-! ### The two answers to a command word -/

theorem State.writeCommand_of_ok (s : State) {w : Word} {i : Instr} (h : decode w = .ok i) :
    s.writeCommand w = exec i s := by
  rw [State.writeCommand, h]

theorem State.writeCommand_of_error (s : State) {w : Word} {e : DecodeError} (h : decode w = .error e) :
    s.writeCommand w = .next s.rejectReserved := by
  rw [State.writeCommand, h]

theorem State.writeCMD_eq (s : State) (w : Word) : s.writeCMD w = (s.withWdata w).writeCommand w := s.access_CMD w

/-! ### Rejection -/

theorem exec_of_busy {s : State} (h : s.status.busy = true) (i : Instr) : exec i s = .next (s.raise .busy) := by
  rw [exec_eq, State.issue_of_busy h]

theorem exec_of_noinit {s : State} (hb : s.status.busy = false) (hi : s.status.init = false) {i : Instr}
    (ha : allowedBeforeInit i.opcode = false) : exec i s = .next (s.raise .noinit) := by
  rw [exec_eq, State.issue_of_noinit hb hi ha]

theorem allowedBeforeInit_eq_false_iff (op : BitVec 4) :
    allowedBeforeInit op = false ↔ op ≠ 0x5#4 ∧ op ≠ 0xA#4 := by
  rw [← Bool.not_eq_true, allowedBeforeInit_iff, not_or]

/-- Settles O6: each of the two rejections is the raising of its flag. -/
theorem rejectedOperationSetsItsFlagOnly : Obligations.RejectedOperationSetsItsFlagOnly :=
  ⟨fun _ i h => exec_of_busy h i,
    fun _ i hb hi h5 hA => exec_of_noinit hb hi ((allowedBeforeInit_eq_false_iff i.opcode).2 ⟨h5, hA⟩)⟩

/-! ### Acceptance -/

/-- INITIALIZE alone sets INIT (41_display_control.md R130). -/
theorem Instr.opcode_eq_initialise_iff (i : Instr) : i.opcode = 0x5#4 ↔ i = .initialise :=
  ⟨Instr.eq_initialise_of_opcode, fun h => h ▸ rfl⟩

/-- An accepted operation puts the `Expand` of its latch in `prog` (10_state.md R33). -/
theorem State.accept_expand (s : State) {i : Instr} (hwf : i.wf = true) :
    s.accept i (progOf i s) = { s with
      lat := s.latchOf i
      prog := expand s.cfg (s.latchOf i) s.bright
      status := { s.status with busy := true, init := s.status.init || decide (i.opcode = 0x5#4) } } := by
  rw [progOf_eq_expand s hwf]
  rfl

/-- Settles O7: the operation is accepted, and the micro-steps of its meaning, of which there are some, are the `Expand` of the
latch. -/
theorem everyOperationIsAccepted : Obligations.EveryOperationIsAccepted := by
  intro s i hwf h
  constructor
  · rw [exec_of_accepts h, s.accept_expand hwf]
    simp only [Instr.opcode_eq_initialise_iff]
  · rw [← progOf_eq_expand s hwf]
    exact progOf_ne_nil i s

/-! ### The acceptance step -/

theorem not_reserved_of_decode {w : Word} {i : Instr} (h : decode w = .ok i) :
    ¬(opField w = 0x0#4 ∨ opField w = 0xE#4 ∨ opField w = 0xF#4) := by
  obtain ⟨hop, -, -⟩ := decode_ok h
  rw [← hop, not_or, not_or]
  exact i.opcode_not_reserved

/-- Settles O5: the branches of the acceptance step are those of R181's pseudo-code, a reserved opcode taking the second and an
operation never. -/
theorem acceptanceStep : Obligations.AcceptanceStep := by
  intro s w op l
  rw [s.writeCMD_eq]
  cases hd : decode w with
  | error e =>
    rw [State.writeCommand_of_error _ hd]
    exact congrArg _ (if_congr Iff.rfl rfl (if_pos (decode_error hd)).symm)
  | ok i =>
    obtain ⟨hop, hwf, -⟩ := decode_ok hd
    have hlegal : ¬(op = 0x0#4 ∨ op = 0xE#4 ∨ op = 0xF#4) := not_reserved_of_decode hd
    have hnoinit : (!s.status.init && !allowedBeforeInit i.opcode) = true ↔
        s.status.init = false ∧ op ≠ 0x5#4 ∧ op ≠ 0xA#4 := by
      rw [Bool.and_eq_true, Bool.not_eq_true', Bool.not_eq_true', allowedBeforeInit_eq_false_iff, hop]
      rfl
    rw [State.writeCommand_of_ok _ hd, exec_eq, if_neg hlegal]
    refine congrArg _ (if_congr Iff.rfl rfl (if_congr hnoinit rfl ?_))
    rw [State.accept_expand _ hwf, State.latchOf_of_decode _ hd rfl, hop]
    rfl

/-! ### The step that runs an operation -/

/-- A write to CMD at the head of the schedule runs the operation its word decodes to (10_state.md R38). -/
theorem step_of_command {s : State} {w : Word} {i : Instr} {rest : List Event}
    (hin : s.inputs = .host (.write s.cfg.baseAddr 4 w) :: rest) (hd : decode w = .ok i) :
    step s = exec i ((s.withInputs rest).withWdata w) := by
  rw [step_of_host hin, ← State.withInputs_cfg s rest, State.access_CMD, State.writeCommand_of_ok _ hd]

theorem decode_of_decodeTableWord {nbits w : Nat} {i : Instr} (h : decodeTableWord nbits w = some i) :
    decode (tableWord nbits w) = .ok i := by
  unfold decodeTableWord at h
  split at h
  next j hj => rw [hj, Option.some.inj h]
  next => cases h

/-- Settles O47: the head of the schedule is a write to CMD, in the second part the one `withFetchWord` presents. -/
theorem stepRunsTheDecodedOperation : Obligations.StepRunsTheDecodedOperation :=
  ⟨fun _ _ _ _ hin hd => step_of_command hin hd,
    fun _ _ _ _ h => step_of_command rfl (decode_of_decodeTableWord h)⟩

end Sys2Proof.Machine
end

section
/-! SUPPORT. The statements on how long an operation lasts, what a host reads while it runs, and the end of a host program
(70_reset_and_hazards.md). -/

namespace Sys2Proof.Machine

/-! ### The lengths of the operations -/

/-- The micro-steps and the `Wait`s of a sequence: the two columns of 70_reset_and_hazards.md R211. -/
def seqSize (p : List MicroStep) : Nat × Nat := (p.length, waitCount p)

theorem seqSize_append (p q : List MicroStep) : seqSize (p ++ q) = seqSize p + seqSize q := by
  simp only [seqSize, waitCount, List.length_append, List.countP_append, Prod.mk_add_mk]

/-- A micro-step that writes a register is no Wait. -/
theorem seqSize_cons_of_writesRegister {m : MicroStep} (h : m.writesRegister = true) (p : List MicroStep) :
    seqSize (m :: p) = (1, 0) + seqSize p := by
  rw [← List.singleton_append, seqSize_append]
  cases m
  case setBright | setFrameOut | setResult => rfl
  all_goals exact nomatch h

theorem seqSize_startSeq : seqSize startSeq = (9, 4) := rfl

theorem seqSize_stopSeq : seqSize stopSeq = (9, 4) := rfl

theorem seqSize_writeByteSeq (b : Byte) : seqSize (writeByteSeq b) = (60, 29) := rfl

theorem seqSize_writeByteProg (b : Byte) : seqSize (writeByteProg b) = (61, 29) := rfl

theorem seqSize_sendCommandSeq (b : Byte) : seqSize (sendCommandSeq b) = (78, 37) := by
  simp only [sendCommandSeq, seqSize_append, seqSize_startSeq, seqSize_writeByteSeq, seqSize_stopSeq, Prod.mk_add_mk]

theorem seqSize_setBrightnessSeq (c : Config) (level : Nat) (on : Bit) : seqSize (setBrightnessSeq c level on) = (79, 37) := by
  rw [setBrightnessSeq, seqSize_cons_of_writesRegister rfl, seqSize_sendCommandSeq]; rfl

theorem seqSize_setSegmentsSeq (c : Config) (f : Word) (bright : Byte) : seqSize (setSegmentsSeq c f bright) = (475, 227) := by
  rw [setSegmentsSeq, seqSize_cons_of_writesRegister rfl]
  simp only [seqSize_append, seqSize_startSeq, seqSize_writeByteSeq, seqSize_stopSeq, seqSize_sendCommandSeq, Prod.mk_add_mk]

theorem seqSize_initialiseProg (c : Config) : seqSize (initialiseProg c) = (560, 266) := by
  rw [initialiseProg, seqSize_append, seqSize_append, seqSize_setBrightnessSeq, seqSize_setSegmentsSeq]; rfl

theorem seqSize_progOf (i : Instr) (s : State) : seqSize (progOf i s) = opLength i := by
  cases i
  case start => exact seqSize_startSeq
  case stop => exact seqSize_stopSeq
  case writeByte => exact seqSize_writeByteProg _
  case sendCommand | setAddress => exact seqSize_sendCommandSeq _
  case initialise => exact seqSize_initialiseProg _
  case setBrightness => exact seqSize_setBrightnessSeq ..
  case encodeDigit => exact seqSize_cons_of_writesRegister rfl []
  case clear | setSegments | showNumberAt | showNumber | showTime => exact seqSize_setSegmentsSeq ..

/-- Settles O12: the operation is accepted with its own micro-steps in `prog`, and their sizes add up to the table's. -/
theorem operationLengths : Obligations.OperationLengths := by
  intro s i h
  obtain ⟨hlength, hwaits⟩ := Prod.mk.inj (seqSize_progOf i s)
  exact ⟨_, exec_of_accepts h, hlength, hwaits⟩

/-! ### STATUS while WRITE_BYTE runs -/

/-- While `prog` still has something beyond micro-steps on the bus, performing these leaves STATUS. -/
theorem State.engineRun_status_of_bus {s : State} {p q : List MicroStep} (hprog : s.prog = p ++ q) (hq : q ≠ [])
    (hbus : p.all (fun m => (m.busEvent false).isSome) = true) {n : Nat} (hn : n ≤ p.length) :
    (State.engineRun n s).status = s.status := by
  have hsplit : s.prog = p.take n ++ (p.drop n ++ q) := by
    rw [hprog, ← List.append_assoc, List.take_append_drop]
  have htake : (p.take n).all (fun m => (m.busEvent false).isSome) = true :=
    List.all_eq_true.2 fun m hm => List.all_eq_true.1 hbus m (List.mem_of_mem_take hm)
  have hrun := State.engineRun_part hsplit (by simp [hq])
  rw [List.length_take_of_le hn] at hrun
  rw [hrun, State.withProg_status, s.performAll_sameButBus htake]

/-- Acceptance after INITIALIZE sets BUSY alone. -/
theorem State.accept_status_of_ready {s : State} (h : s.ready) (i : Instr) (p : List MicroStep) :
    (s.accept i p).status = { s.status with busy := true } := by
  simp [h.2]

/-- Settles O23: the micro-steps before PublishAck are all on the bus. -/
theorem ackIsOldWhileWriteByteRuns : Obligations.AckIsOldWhileWriteByteRuns := by
  intro s b n hready hn
  refine ⟨_, exec_of_accepts (State.accepts_of_ready hready (.writeByte b)), ?_⟩
  rw [State.engineRun_status_of_bus (p := writeByteSeq b) (q := [.publishAck]) rfl (by simp) rfl (Nat.le_of_lt_succ hn),
    State.accept_status_of_ready hready]

/-! ### The ending read of a host program -/

/-- The ending read is POLL's or a read of STATUS as the last thing scheduled, with BUSY at 0. -/
theorem State.atEndingRead_cases {s : State} (h : s.atEndingRead = true) :
    s.status.busy = false ∧ (s.inputs = [.poll] ∨
      ∃ addr size, s.inputs = [.host (.read addr size)] ∧ windowOffset s.cfg addr size = some 0x0C) := by
  obtain ⟨hbusy, hlast⟩ := (Bool.and_eq_true ..).mp h
  refine ⟨by simpa using hbusy, ?_⟩
  split at hlast
  next hin => exact .inl hin
  next addr size hin => exact .inr ⟨addr, size, hin, beq_iff_eq.1 hlast⟩
  next => exact nomatch hlast

/-- No read ends the program while more is scheduled. -/
theorem State.atEndingRead_of_rest {s : State} {e : Event} {rest : List Event} (hin : s.inputs = e :: rest)
    (hrest : rest ≠ []) : s.atEndingRead = false := by
  by_contra h
  obtain ⟨-, hlast | ⟨addr, size, hlast, -⟩⟩ := State.atEndingRead_cases (Bool.eq_true_of_not_eq_false h) <;>
    rw [hin] at hlast <;> exact hrest (List.cons.inj hlast).2

theorem State.atEndingRead_of_busy {s : State} (h : s.status.busy = true) : s.atEndingRead = false := by
  rw [State.atEndingRead, h]; rfl

/-- The ending read empties the schedule and puts STATUS on the read-data lines. -/
theorem step_of_atEndingRead {s : State} (h : s.atEndingRead = true) :
    step s = .next { s with inputs := [], rdata := s.status.toWord } := by
  obtain ⟨hbusy, hin | ⟨addr, size, hin, hoff⟩⟩ := State.atEndingRead_cases h
  · rw [step_of_poll hin, State.pollOnce_eq, hbusy]; rfl
  · rw [step_of_host hin, State.access, State.withInputs_cfg, hoff]; rfl

theorem State.ended_eq {s t : State} (h : s.ended t) :
    s.status.busy = false ∧ t = { s with inputs := [], rdata := s.status.toWord } := by
  obtain ⟨hend, hstep⟩ := h
  rw [step_of_atEndingRead hend] at hstep
  exact ⟨(State.atEndingRead_cases hend).1, (Host.Outcome.next.inj hstep).symm⟩

/-! ### Every step keeps BUSY in step with `prog` -/

theorem State.SameForInv.busyAgrees {s t : State} (e : s.SameForInv t) (h : s.busyAgrees) : t.busyAgrees := by
  rw [State.busyAgrees, e.busy, e.prog]; exact h

theorem step_busyAgrees {s t : State} (hs : s.busyAgrees) (h : step s = .next t) : t.busyAgrees := by
  obtain ⟨ins, wd, rd, hcases⟩ := step_cases h
  have hport : (s.atPort ins wd rd).busyAgrees := (s.atPort_sameForInv ins wd rd).busyAgrees hs
  obtain rfl | ⟨rfl, -⟩ | rfl | ⟨off, v, rfl, -⟩ | ⟨e, rfl⟩ | ⟨i, -, -, -, rfl⟩ := hcases
  · exact State.engineStep_busyAgrees hport
  · exact iff_of_false Bool.false_ne_true (fun hne => hne rfl)
  · exact hport
  · exact (State.writeReg_sameForInv _ off v).busyAgrees hport
  · exact (State.raise_sameForInv _ e).busyAgrees hport
  · exact iff_of_true rfl (progOf_ne_nil i s)

/-! ### The run of a host program -/

/-- The run from `s` comes to an ending read, with `prog` empty and the parameters as they were. -/
def State.RunEnds (s : State) : Prop :=
  ∃ (fuel : Nat) (u t : State), State.runToEnd fuel s = some t ∧ u.ended t ∧ t.prog = [] ∧ t.cfg = s.cfg

theorem State.RunEnds.of_ended {s t : State} (hagree : s.busyAgrees) (hr : s.inputs.head? ≠ some .reset) (h : s.ended t) :
    s.RunEnds := by
  obtain ⟨hbusy, ht⟩ := State.ended_eq h
  refine ⟨1, s, t, State.runToEnd_ended hr h 0, h, ?_, step_cfg h.2⟩
  rw [ht]
  exact State.prog_eq_nil hagree hbusy

/-- A run ends if it goes on, after a step that is not its last, to an end. -/
theorem State.RunEnds.of_step {s t : State} (hr : s.inputs.head? ≠ some .reset) (he : s.atEndingRead = false)
    (hs : step s = .next t) (h : t.RunEnds) : s.RunEnds := by
  obtain ⟨fuel, u, t', hrun, hended, hprog, hcfg⟩ := h
  exact ⟨fuel + 1, u, t', (State.runToEnd_step hr he hs fuel).trans hrun, hended, hprog, hcfg.trans (step_cfg hs)⟩

/-- POLL reads STATUS until the operation in `prog` has ended (30_encoding.md R81), each engine turn between two reads performing
one micro-step: it is enough that the run ends from the read with BUSY = 0. -/
theorem State.RunEnds.of_poll {s : State} {rest : List Event} (hagree : s.busyAgrees) (hin : s.inputs = .poll :: rest)
    (hidle : ∀ t : State, t.busyAgrees → t.inputs = .poll :: rest → t.status.busy = false → t.cfg = s.cfg → t.RunEnds) :
    s.RunEnds := by
  induction hp : s.prog generalizing s with
  | nil => exact hidle s hagree hin (Bool.eq_false_iff.2 fun hbusy => hagree.1 hbusy hp) rfl
  | cons m p ih =>
    have hbusy : s.status.busy = true := hagree.2 (by simp [hp])
    have hread : step s = .next { s with rdata := s.status.toWord, inputs := .engine :: .poll :: rest } := by
      rw [step_of_poll hin, State.pollOnce_eq, if_pos hbusy]
    have hturn := step_of_engine (s := { s with rdata := s.status.toWord, inputs := .engine :: .poll :: rest }) rfl
    refine .of_step (by simp [hin]) (State.atEndingRead_of_busy hbusy) hread
      (.of_step (by simp) (State.atEndingRead_of_rest rfl (List.cons_ne_nil _ _)) hturn (ih ?_ ?_ ?_ ?_))
    · exact step_busyAgrees (step_busyAgrees hagree hread) hturn
    · rw [State.engineStep_inputs]; rfl
    · exact fun t hagree' hin' hbusy' hcfg =>
        hidle t hagree' hin' hbusy' (hcfg.trans ((step_cfg hturn).trans (step_cfg hread)))
    · rw [State.engineStep_prog]; exact congrArg List.tail hp

/-- What a host program schedules for a window of parameters `c`: POLL, and host accesses to offsets of the window. -/
def Event.ofProgram (c : Config) : Event → Bool
  | .host a => (a.offset c).isSome
  | .poll => true
  | .engine => false
  | .reset => false

/-- A schedule of a program's events with a last read of STATUS runs to its end. -/
theorem State.runEnds_of_ofProgram {s : State} {events : List Event} (hagree : s.busyAgrees)
    (hevents : ∀ e ∈ events, e.ofProgram s.cfg = true) (hin : s.inputs = events ++ [.poll]) : s.RunEnds := by
  induction events generalizing s with
  | nil =>
    refine .of_poll hagree hin fun t hagree' hin' hbusy _ => ?_
    have hend : t.atEndingRead = true := by simp [State.atEndingRead, hbusy, hin']
    exact .of_ended hagree' (by simp [hin']) ⟨hend, step_of_atEndingRead hend⟩
  | cons e events ih =>
    have hrest : events ++ [.poll] ≠ [] := by simp
    obtain ⟨he, hevents⟩ := List.forall_mem_cons.1 hevents
    have hgo {t t' : State} (hagree' : t.busyAgrees) (hin' : t.inputs = e :: (events ++ [.poll])) (hcfg : t.cfg = s.cfg)
        (hs : step t = .next t') (hnext : t'.inputs = events ++ [.poll]) : t.RunEnds := by
      have hr : e ≠ .reset := by rintro rfl; exact nomatch he
      refine .of_step (by simpa [hin'] using hr) (State.atEndingRead_of_rest hin' hrest) hs
        (ih (step_busyAgrees hagree' hs) ?_ hnext)
      rw [step_cfg hs, hcfg]; exact hevents
    cases e
    case host a =>
      obtain ⟨t, ht, hnext⟩ := State.access_next (s := s.withInputs (events ++ [.poll])) he
      exact hgo hagree hin rfl ((step_of_host hin).trans ht) hnext
    case poll =>
      refine .of_poll hagree hin fun t hagree' hin' hbusy hcfg => hgo hagree' hin' hcfg (step_of_poll hin') ?_
      rw [State.pollOnce_eq, hbusy]; rfl
    case engine | reset => exact nomatch he

/-! ### The events of a host program -/

theorem HostLine.assemblePlain_ofProgram (c : Config) {l : HostLine} {events : List Event}
    (h : l.assemblePlain c.baseAddr = some events) : ∀ e ∈ events, e.ofProgram c = true := by
  have hreg (r : Reg) : (windowOffset c (c.baseAddr + r.offset) 4).isSome = true := by
    rw [windowOffset_add c (by cases r <;> decide) (by cases r <;> decide)]; rfl
  cases l
  case wr r v => cases h; exact List.forall_mem_singleton.2 (hreg r)
  case rd r => cases h; exact List.forall_mem_singleton.2 (hreg r)
  case command i =>
    obtain ⟨-, h⟩ := Option.ite_none_right_eq_some.1 h
    cases h; exact List.forall_mem_singleton.2 (hreg .CMD)
  case poll => cases h; exact List.forall_mem_singleton.2 rfl
  all_goals exact nomatch h

theorem assemblePlainLines_ofProgram (c : Config) {lines : List HostLine} {events : List Event}
    (h : assemblePlainLines c.baseAddr lines = some events) : ∀ e ∈ events, e.ofProgram c = true := by
  induction lines generalizing events with
  | nil => cases h; exact List.forall_mem_nil _
  | cons l lines ih =>
    unfold assemblePlainLines at h
    split at h
    next hl hlines =>
      cases h
      exact List.forall_mem_append.2 ⟨HostLine.assemblePlain_ofProgram c hl, ih hlines⟩
    next => exact nomatch h

/-- Settles O51: the ending read is one of two steps; a program schedules defined accesses and POLLs alone, each of which the run
gets past, the last POLL with BUSY at 0. -/
theorem hostProgramsEnd : Obligations.HostProgramsEnd := by
  refine ⟨fun s t h => ?ending, fun s p events hagree h => ?runs⟩
  case ending =>
    obtain ⟨hbusy, rfl⟩ := State.ended_eq h
    exact ⟨hbusy, rfl, (Status.toWord_busy s.status).trans hbusy⟩
  case runs =>
    obtain ⟨lines, hlines, rfl⟩ := Option.map_eq_some_iff.1 h
    exact State.runEnds_of_ofProgram (s := s.withInputs (lines ++ [.poll])) hagree
      (assemblePlainLines_ofProgram s.cfg hlines) rfl

end Sys2Proof.Machine
end
